-- ==== Sys2Proof/Word.lean ====
section
/-! DEFINITION. The word types of `signed_24bit_be_decoder` and the exact-integer narrowing of rule R7. -/

namespace Sys2Proof

/-- One byte. Byte width is fixed at 8 bits (R5). -/
abbrev Byte := BitVec 8

/-- A word of format `DEC`, the decoder core's input `din[23:0]` (R44). -/
abbrev DecWord := BitVec 24

/-- A word of format `TOK`, the scanner's 10-bit input token (R47). -/
abbrev TokWord := BitVec 10

/-- `bits_N(x)` of R7: the `N`-bit vector whose unsigned value is `x mod 2^N`. -/
abbrev bitsOf (n : Nat) (x : Int) : BitVec n := BitVec.ofInt n x

end Sys2Proof
end

