-- ==== Sys2Proof/Config.lean ====
section
/-! DEFINITION. What a build of the block fixes (R5), and the constants the source fixes. -/

namespace Sys2Proof

/-- The synthesis parameters (R5, R16). `OUT_W` and `HAS_SCANNER` are the only configuration a model takes;
`State` carries them and no step changes them. -/
structure Build where
  /-- `OUT_W`: the width of the signed output, at least 24 (`Build.wellFormed` says so). -/
  outW : Nat
  /-- `HAS_SCANNER`: whether the marker scanner is built. -/
  hasScanner : Bool
  deriving DecidableEq, Repr

/-- The defaults of R5: `OUT_W = 32`, `HAS_SCANNER = true`. -/
def Build.default : Build := { outW := 32, hasScanner := true }

/-- The same block without the optional scanner (R27). -/
def Build.decoderOnly : Build := { outW := 32, hasScanner := false }

namespace Config

/-- `MARKER`, fixed at `0x25` (R5, R16). -/
def marker : Byte := 0x25

/-- `FIELD_BYTES`, fixed at 3 (R5). -/
def fieldBytes : Nat := 3

/-- `N_FIELDS`, fixed at 2: latitude, then longitude (R5). -/
def nFields : Nat := 2

/-- `SCALE`, fixed at 30000; the host's, not the block's (R5, R97). -/
def scale : Nat := 30000

/-- The identity string of a build (R2). -/
def identity (b : Build) : String :=
  if b.hasScanner then "signed_24bit_be_decoder-1.0+scan" else "signed_24bit_be_decoder-1.0"

end Config

end Sys2Proof
end

