-- ==== Sys2Proof/Syntax.lean ====
section
/-! DEFINITION. The block's operations (one constructor per row of the opcode table, R55), its two input
formats (R44, R47), and the moves a host can make (R98). -/

namespace Sys2Proof

/-- The five operations of R55. `rst` is no operation (R47, R55): it is a move of its own, `Move.rstEdge`. -/
inductive Instr where
  /-- `DEC24 b0 b1 b2`: the decoder core sees `din = {b0, b1, b2}` (R60). -/
  | dec24 (b0 b1 b2 : Byte)
  /-- `NOP`: an edge with no byte and no end of packet (R74). -/
  | nop
  /-- `BYTE d`: byte `d` joins the current packet (R75). -/
  | byte (d : Byte)
  /-- `END`: the current packet ends with no further byte (R76). -/
  | endPacket
  /-- `LAST d`: byte `d` joins the current packet, which then ends (R77). -/
  | last (d : Byte)
  deriving DecidableEq, Repr

/-- Does the operation belong to format `TOK`, so that it takes one rising edge of `clk` (R55)? -/
def Instr.isToken : Instr → Bool
  | .dec24 _ _ _ => false
  | .nop => true
  | .byte _ => true
  | .endPacket => true
  | .last _ => true

/-- A raw input word in the format of the ports that carry it: the two formats are told apart by the ports,
not by bits (R43, R55). -/
inductive InputWord where
  /-- A word on `din`, in format `DEC` (R44). -/
  | dec (din : DecWord)
  /-- What `in_valid`, `in_end` and `in_byte` carry at one edge, in format `TOK` (R47). -/
  | tok (t : TokWord)
  deriving DecidableEq, Repr

/-- One move of the host (R98). Reading an output is no move: it has no effect (R38), so outputs are views. -/
inductive Move where
  /-- Drive `din` with a `DEC` word, or give a `TOK` word at one rising edge of `clk` with `rst = 0`. -/
  | present (w : InputWord)
  /-- One rising edge with `rst = 1`; the token on the other inputs is `tok` (R101, R103). -/
  | rstEdge (tok : TokWord)
  deriving DecidableEq, Repr

end Sys2Proof
end

