-- ==== Sys2Proof/WellFormed.lean ====
section
/-! DEFINITION. Which builds, operations, moves and fields the spec admits. An operand byte is a `BitVec 8`,
so it needs no check of its own. -/

namespace Sys2Proof

/-- `OUT_W >= 24` (R5). -/
def Build.wellFormed (b : Build) : Bool := decide (24 ≤ b.outW)

/-- An operation can be given to a build that has the ports it comes in by: token ports exist only when
`HAS_SCANNER = true` (R43). -/
def Instr.wellFormed (b : Build) (i : Instr) : Bool := !i.isToken || b.hasScanner

/-- The same for a raw word (R43). -/
def InputWord.wellFormed (b : Build) : InputWord → Bool
  | .dec _ => true
  | .tok _ => b.hasScanner

/-- A move a host of this build can make: `rst` too is a scanner port (R43). -/
def Move.wellFormed (b : Build) : Move → Bool
  | .present w => w.wellFormed b
  | .rstEdge _ => b.hasScanner

/-- A 3-byte field is exactly three bytes (R10, R36, R64). -/
def fieldWellFormed (bytes : List Byte) : Bool := bytes.length == Config.fieldBytes

end Sys2Proof
end

