-- ==== Sys2Proof/Decode.lean ====
section
/-! DEFINITION. Decoding of the two input formats (R44, R47, R49) and the encoder written from the same tables.
Every `DEC` word and every `TOK` word is valid (R53), so a word of a format always decodes; what is refused, by
name, is a bit count that is no format's, a number too large for its format, and a field that is not three bytes. -/

namespace Sys2Proof

/-- Why raw bits are no input of the block. -/
inductive DecodeError where
  /-- No input format has this many bits (R43: `din` has 24, R47: a token has 10). -/
  | noSuchFormat (nbits : Nat)
  /-- The number does not fit the format's width. -/
  | tooWide (nbits w : Nat)
  /-- A field of another length than 3: "a model of a host that calls the decoder with another length must
  refuse that call" (R64). -/
  | fieldLength (n : Nat)
  deriving DecidableEq, Repr

/-- `b0 = din[23:16]` (R44). -/
def decB0 (w : DecWord) : Byte := w.extractLsb' 16 8

/-- `b1 = din[15:8]` (R44). -/
def decB1 (w : DecWord) : Byte := w.extractLsb' 8 8

/-- `b2 = din[7:0]` (R44). -/
def decB2 (w : DecWord) : Byte := w.extractLsb' 0 8

/-- `din[23:0] = {b0, b1, b2}` (R44). -/
def decWordOf (b0 b1 b2 : Byte) : DecWord := b0 ++ b1 ++ b2

/-- `v = tok[9]`, which is `in_valid` (R47). -/
def tokV (t : TokWord) : Bool := t.getLsbD 9

/-- `e = tok[8]`, which is `in_end` (R47). -/
def tokE (t : TokWord) : Bool := t.getLsbD 8

/-- `d = tok[7:0]`, which is `in_byte` (R47). -/
def tokD (t : TokWord) : Byte := t.extractLsb' 0 8

/-- A token word from its fields (R47). -/
def tokWordOf (v e : Bool) (d : Byte) : TokWord := BitVec.ofBool v ++ BitVec.ofBool e ++ d

/-- Format `DEC`: every 24-bit word selects `DEC24` (R60). -/
def decodeDec (w : DecWord) : Instr := .dec24 (decB0 w) (decB1 w) (decB2 w)

/-- Format `TOK`: `v` and `e` select the token kind (R49); `NOP` and `END` ignore `d` (R50). -/
def decodeTok (t : TokWord) : Instr :=
  match tokV t, tokE t with
  | false, false => .nop
  | true, false => .byte (tokD t)
  | false, true => .endPacket
  | true, true => .last (tokD t)

/-- The operation an input word selects (R55). -/
def decode : InputWord → Instr
  | .dec w => decodeDec w
  | .tok t => decodeTok t

/-- Raw bits as an input word: 24 bits are a `DEC` word; 10 bits, or the two whole bytes they fill, are a `TOK`
word. Bit 0 is the word's least significant bit (R6). DESIGN CHOICE: log entry 9. Safe. -/
def readWord (nbits w : Nat) : Except DecodeError InputWord :=
  if nbits = 24 then
    if w < 2 ^ 24 then .ok (.dec (BitVec.ofNat 24 w)) else .error (.tooWide nbits w)
  else if nbits = 10 ∨ nbits = 16 then
    if w < 2 ^ 10 then .ok (.tok (BitVec.ofNat 10 w)) else .error (.tooWide nbits w)
  else .error (.noSuchFormat nbits)

/-- Total decoding of raw bits, refusing by name. -/
def decodeWord (nbits w : Nat) : Except DecodeError Instr :=
  match readWord nbits w with
  | .ok word => .ok (decode word)
  | .error e => .error e

/-- A field given as a byte sequence: exactly three bytes, neither padded nor truncated (R64). -/
def decodeField : List Byte → Except DecodeError Instr
  | [b0, b1, b2] => .ok (.dec24 b0 b1 b2)
  | bytes => .error (.fieldLength bytes.length)

/-- The instruction the decoder reads from the bits `w`, numbered as the opcode table numbers them. -/
def decodeTableWord (nbits w : Nat) : Option Instr :=
  match decodeWord nbits w with
  | .ok i => some i
  | .error _ => none

/-- The input word of an operation (R44, R56); an ignored `in_byte` is written 0 (R50). -/
def encode : Instr → InputWord
  | .dec24 b0 b1 b2 => .dec (decWordOf b0 b1 b2)
  | .nop => .tok (tokWordOf false false 0)
  | .byte d => .tok (tokWordOf true false d)
  | .endPacket => .tok (tokWordOf false true 0)
  | .last d => .tok (tokWordOf true true d)

/-- The mnemonic of an operation's row in the opcode table. -/
def Instr.mnemonic : Instr → String
  | .dec24 _ _ _ => "DEC24"
  | .nop => "NOP"
  | .byte _ => "BYTE"
  | .endPacket => "END"
  | .last _ => "LAST"

/-- One row of the opcode table: the format's width, and the mask and match that select the operation. -/
structure Row where
  mnemonic : String
  width : Nat
  mask : Nat
  pattern : Nat
  deriving DecidableEq, Repr

/-- The opcode table, row by row (R49, R55). -/
def opcodeTable : List Row :=
  [ { mnemonic := "DEC24", width := 24, mask := 0x000000, pattern := 0x000000 },
    { mnemonic := "NOP", width := 10, mask := 0x300, pattern := 0x000 },
    { mnemonic := "BYTE", width := 10, mask := 0x300, pattern := 0x200 },
    { mnemonic := "END", width := 10, mask := 0x300, pattern := 0x100 },
    { mnemonic := "LAST", width := 10, mask := 0x300, pattern := 0x300 } ]

/-- The width of the format of an input word (R44, R47). -/
def InputWord.width : InputWord → Nat
  | .dec _ => 24
  | .tok _ => 10

/-- An input word as a number, bit 0 least significant (R6). -/
def InputWord.toNat : InputWord → Nat
  | .dec w => w.toNat
  | .tok t => t.toNat

/-- Does a row of the table select this word (R49)? -/
def Row.selects (r : Row) (w : InputWord) : Bool :=
  r.width == w.width && w.toNat &&& r.mask == r.pattern

end Sys2Proof
end

