-- ==== Sys2Proof/Machine/State.lean ====
section
/-! DEFINITION. The machine's state as plain data (R17), its state after reset (R26), and the reasons a step stops. -/

namespace Sys2Proof.Machine

open Sys2Proof

/-- `st`: the phase within the current packet (R18). "A model represents `st` as a type with exactly three values." -/
inductive Phase where
  /-- No marker byte has been seen yet in the current packet. -/
  | search
  /-- The first marker has been seen, and fewer than six bytes after it have been captured. -/
  | field
  /-- Six bytes after the first marker have been captured; later bytes are ignored. -/
  | drain
  deriving DecidableEq, Repr

/-- The three outcomes `status_q` can hold (R51); code `11` is reserved and the type lacks it (R53). -/
inductive Status where
  | ok
  | markerNotFound
  | truncated
  deriving DecidableEq, Repr

/-- `buf[0]` to `buf[5]`, the six captured field bytes (R17, R20). -/
abbrev Buf := Vector Byte 6

/-- The scanner's hidden registers, on which one accepted byte acts (R24, R71). -/
structure Capture where
  /-- `st`, 2 bits (R17, R18). -/
  st : Phase
  /-- `cnt`, 3 bits with values 0 to 6; the value 7 is never written and the type lacks it (R17, R19). -/
  cnt : Fin 7
  /-- `buf[0..5]`, 8 bits each (R17, R20). -/
  buf : Buf
  deriving DecidableEq, Repr

/-- The scanner's registers (R17), for an output width `w = OUT_W`. -/
structure Scanner (w : Nat) extends Capture where
  /-- `done_q`, 1 bit; drives `done` (R17, R21). -/
  doneQ : Bool
  /-- `status_q`, 2 bits; drives `status` (R17, R21). -/
  statusQ : Status
  /-- `lat_q`, `OUT_W` bits; drives `lat` (R17, R21). -/
  latQ : BitVec w
  /-- `lon_q`, `OUT_W` bits; drives `lon` (R17, R21). -/
  lonQ : BitVec w
  deriving DecidableEq, Repr

/-- The machine: the block of one build, the level the host holds on `din`, and the host's moves to come. -/
structure State where
  /-- The synthesis parameters of this block (R5, R16); no step changes them. DESIGN CHOICE: State carries them (log
  entry 6). Safe. -/
  build : Build
  /-- The scanner's registers. In a build without a scanner (R27) nothing reads or writes them. -/
  scanner : Scanner build.outW
  /-- The level on the input port `din` (R43). The decoder core itself holds no state (R15): `dout` is a view. -/
  din : DecWord
  /-- The host's moves that are still to come, the next one first (R98). -/
  moves : List Move
  deriving DecidableEq, Repr

/-- Why the machine stops. The block has no trap (R91); this is a stop of the model. -/
inductive Fault where
  /-- A byte is accepted with `st = FIELD` and `cnt = 6`, where R71 would write `buf[6]`, which does not exist.
  Raised by `BYTE` and `LAST`. R19 and R25 exclude the state, and no run reaches it. Safe: the model stops. -/
  | captureIndexOutOfRange
  deriving DecidableEq, Repr

/-- What the model gives no meaning. -/
inductive Refusal where
  /-- An instruction with no meaning yet; raised by no arm of `exec`. Safe: the model stops. -/
  | notModelled (mnemonic : String)
  /-- A token or a reset edge is given to a build with `HAS_SCANNER = false`, which has no such ports (R27, R43).
  Raised by `NOP`, `BYTE`, `END`, `LAST` and a reset edge. Safe: the model stops. -/
  | noScannerPorts
  deriving DecidableEq, Repr

/-- What `buf` holds at reset. The spec leaves it unspecified (R20, R26).
DESIGN CHOICE: six zero bytes; see log entry 1. Unsafe. -/
def Buf.atReset : Buf := Vector.replicate 6 0

/-- The scanner after reset (R26). -/
def Scanner.atReset (w : Nat) : Scanner w :=
  { st := .search, cnt := 0, buf := Buf.atReset, doneQ := false, statusQ := .ok, latQ := 0, lonQ := 0 }

/-- The block of a given build right after reset (R26, R104). DESIGN CHOICE: `din` is 0 (log entry 2), and the host
has not decided on any move yet (log entry 4). Unsafe, both. -/
def State.resetOf (b : Build) : State :=
  { build := b, scanner := Scanner.atReset b.outW, din := 0, moves := [] }

/-- The block of the default build right after reset (R5, R26). -/
def State.reset : State := State.resetOf Build.default

end Sys2Proof.Machine
end

