-- ==== Sys2Proof/Machine/Operands.lean ====
section
/-! DEFINITION. The operand form of the block: a 3-byte big-endian field as a signed integer (R45, R60), and the two
fields of the capture buffer (R20, R65). -/

namespace Sys2Proof.Machine

open Sys2Proof

/-- The unsigned value of a field, most significant byte first (R31, R45). -/
def fieldUnsigned (b0 b1 b2 : Byte) : Nat := b0.toNat * 65536 + b1.toNat * 256 + b2.toNat

/-- `dec24` of R60, on exact integers. -/
def dec24 (b0 b1 b2 : Byte) : Int :=
  let u := fieldUnsigned b0 b1 b2
  if 8388608 ≤ u then (u : Int) - 16777216 else (u : Int)

/-- `dec24` of the three bytes of a `DEC` word (R60). -/
def dec24Word (w : DecWord) : Int := dec24 (decB0 w) (decB1 w) (decB2 w)

/-- The latitude: `buf[0..2]`, `buf[0]` most significant (R20, R65). -/
def Buf.lat (buf : Buf) : Int := dec24 buf[0] buf[1] buf[2]

/-- The longitude: `buf[3..5]`, `buf[3]` most significant (R20, R65). -/
def Buf.lon (buf : Buf) : Int := dec24 buf[3] buf[4] buf[5]

end Sys2Proof.Machine
end

