-- ==== Sys2Proof/Machine/Flags.lean ====
section
/-! DEFINITION. The block's only status indicators, `done_q` and `status_q` (R22), the codes of `status` (R51), the
encodings of `st` and `cnt` (R52), and the two operations that write the output registers (R70, R78). -/

namespace Sys2Proof.Machine

open Sys2Proof

/-- The 2-bit code of `status` (R51). -/
def Status.code : Status → BitVec 2
  | .ok => 0b00
  | .markerNotFound => 0b01
  | .truncated => 0b10

/-- The 2-bit encoding of `st` (R17, R52). -/
def Phase.code : Phase → BitVec 2
  | .search => 0b00
  | .field => 0b01
  | .drain => 0b10

/-- The 3-bit encoding of `cnt` (R52). -/
def Capture.cntCode (c : Capture) : BitVec 3 := BitVec.ofNat 3 c.cnt.val

/-- `report(code, la, lo)`: all four output registers are written at one edge (R37, R70). -/
def Scanner.report {w : Nat} (sc : Scanner w) (code : Status) (la lo : BitVec w) : Scanner w :=
  { sc with doneQ := true, statusQ := code, latQ := la, lonQ := lo }

/-- `done_q <- 0` at an edge that does not report; `status_q`, `lat_q` and `lon_q` hold (R78, R79). -/
def Scanner.noReport {w : Nat} (sc : Scanner w) : Scanner w :=
  { sc with doneQ := false }

end Sys2Proof.Machine
end

