-- ==== Sys2Proof/Machine/Ops.lean ====
section
/-! DEFINITION. The named operations of the machine: the effect of one byte (R71), the report at the end of a packet
(R72), the clock edge (R73), reset (R102), the host's next move, and the output ports as views (R21, R46, R48).
The block has no trap entry or return (R91, R92): an error is a report like any other. -/

namespace Sys2Proof.Machine

open Sys2Proof

/-- `byte_step` of R71: the effect of one accepted byte on (`st`, `cnt`, `buf`). With `st = FIELD` and `cnt = 6`
(excluded by R19 and R25) there is no `buf[cnt]`, and the model stops. DESIGN CHOICE: log entry 3. Safe. -/
def byteStep (c : Capture) (b : Byte) : Except Fault Capture :=
  match c.st with
  | .search =>
    if b = Config.marker then .ok { st := .field, cnt := 0, buf := c.buf }
    else .ok { st := .search, cnt := 0, buf := c.buf }
  | .field =>
    if h : c.cnt.val < 6 then
      let buf1 := c.buf.set c.cnt.val b
      if c.cnt.val = 5 then .ok { st := .drain, cnt := 6, buf := buf1 }
      else .ok { st := .field, cnt := ⟨c.cnt.val + 1, by omega⟩, buf := buf1 }
    else .error .captureIndexOutOfRange
  | .drain => .ok { st := .drain, cnt := 6, buf := c.buf }

/-- `end_step` of R72: the code, latitude and longitude of the report for a packet that ends here. -/
def endStep (w : Nat) (c : Capture) : Status × BitVec w × BitVec w :=
  match c.st with
  | .search => (.markerNotFound, 0, 0)
  | .field => (.truncated, 0, 0)
  | .drain => (.ok, bitsOf w c.buf.lat, bitsOf w c.buf.lon)

/-- `st <- SEARCH; cnt <- 0`: the next packet starts (R73). `buf` keeps its value. -/
def Capture.nextPacket (c : Capture) : Capture := { c with st := .search, cnt := 0 }

/-- The registers after an edge that goes on with the packet (R73, `in_end = 0`); `c1` is (`s1`, `c1`, `b1`). -/
def Scanner.goOn {w : Nat} (sc : Scanner w) (c1 : Capture) : Scanner w :=
  Scanner.noReport { sc with toCapture := c1 }

/-- The registers after an edge that ends the packet (R73, `in_end = 1`); `c1` is (`s1`, `c1`, `b1`). -/
def Scanner.finish {w : Nat} (sc : Scanner w) (c1 : Capture) : Scanner w :=
  Scanner.report { sc with toCapture := c1.nextPacket } (endStep w c1).1 (endStep w c1).2.1 (endStep w c1).2.2

/-- `reset` of R102: `buf` keeps its value. -/
def Scanner.reset {w : Nat} (sc : Scanner w) : Scanner w :=
  { sc with st := .search, cnt := 0, doneQ := false, statusQ := .ok, latQ := 0, lonQ := 0 }

/-- The state with other scanner registers of the same build. -/
abbrev State.withScanner (s : State) (sc : Scanner s.build.outW) : State := { s with scanner := sc }

/-- The state with another level on `din`. -/
abbrev State.withDin (s : State) (w : DecWord) : State := { s with din := w }

/-- The state with other moves to come. -/
abbrev State.withMoves (s : State) (ms : List Move) : State := { s with moves := ms }

/-- One rising edge of `clk` (R73): `r` is what the edge makes of the scanner's registers. A build without a scanner
has no clock and no token ports (R27, R43), and the model refuses. DESIGN CHOICE: log entry 6. Safe. -/
def State.edge (s : State) (r : Except Fault (Scanner s.build.outW)) : Host.Outcome State Fault Refusal :=
  if s.build.hasScanner then
    match r with
    | .ok sc => .next (s.withScanner sc)
    | .error f => .fault f
  else .refused .noScannerPorts

/-- An edge with `rst = 1` (R101, R102): whatever the token, it is discarded (R103). -/
def resetEdge (_tok : TokWord) (s : State) : Host.Outcome State Fault Refusal :=
  s.edge (.ok s.scanner.reset)

/-- A step for which the host has presented nothing. The clock runs and the token ports carry "nothing", which is
`NOP` (R10, R74, R95); a build without a scanner has no clock, and nothing happens. DESIGN CHOICE: log entry 4. Unsafe for claims about steps
after the host's last move. -/
def idleStep (s : State) : Host.Outcome State Fault Refusal :=
  if s.build.hasScanner then .next (s.withScanner s.scanner.noReport) else .next s

/-- The host's next move, and the state with that move made. -/
def State.takeMove (s : State) : Option (Move × State) :=
  match s.moves with
  | [] => none
  | m :: rest => some (m, s.withMoves rest)

/-- The state in which the host's next move is `m`. -/
def State.pushMove (s : State) (m : Move) : State := s.withMoves (m :: s.moves)

/-- The output port `dout`: `bits_OUT_W(dec24(b0, b1, b2))` of the level on `din`, with no clock, enable or retained
value (R46, R60, R66). -/
def State.dout (s : State) : BitVec s.build.outW := bitsOf s.build.outW (dec24Word s.din)

/-- Format `REP`: the scanner's output ports at any time (R48). -/
structure Rep (w : Nat) where
  /-- Port `done`, 1 bit. -/
  done : Bool
  /-- Port `status`, 2 bits. -/
  status : BitVec 2
  /-- Port `lat`, `OUT_W` bits. -/
  lat : BitVec w
  /-- Port `lon`, `OUT_W` bits. -/
  lon : BitVec w
  deriving DecidableEq, Repr

/-- The output registers drive the output ports directly (R21). -/
def Scanner.rep {w : Nat} (sc : Scanner w) : Rep w :=
  { done := sc.doneQ, status := sc.statusQ.code, lat := sc.latQ, lon := sc.lonQ }

/-- The scanner's output ports, which a build without a scanner does not have (R43). -/
def State.rep (s : State) : Option (Rep s.build.outW) :=
  if s.build.hasScanner then some s.scanner.rep else none

/-- A report as the host may take it: an error report is its status alone, without coordinates (R58, R80). -/
inductive Report where
  /-- `-> OK(lat, lon)`, the signed values. -/
  | ok (lat lon : Int)
  /-- `-> MNF`. -/
  | markerNotFound
  /-- `-> TRUNC`. -/
  | truncated
  deriving DecidableEq, Repr

/-- The report that is present in this cycle: only where `done = 1` (R48, R79), and with coordinates only where
`status = 00` (R80, R98). -/
def Scanner.reportNow {w : Nat} (sc : Scanner w) : Option Report :=
  if sc.doneQ then
    match sc.statusQ with
    | .ok => some (.ok sc.latQ.toInt sc.lonQ.toInt)
    | .markerNotFound => some .markerNotFound
    | .truncated => some .truncated
  else none

end Sys2Proof.Machine
end

