-- ==== Sys2Proof/Machine/Decoder.lean ====
section
/-! DEFINITION. The meaning of `DEC24` (R60). -/

namespace Sys2Proof.Machine

open Sys2Proof

/-- `DEC24 b0 b1 b2`: `din` carries `{b0, b1, b2}`, and `dout` (the view `State.dout`) follows it combinationally, with
no clock and no effect on the scanner (R60, R66). It exists in every build (R59). -/
def execDec24 (b0 b1 b2 : Byte) (s : State) : Host.Outcome State Fault Refusal :=
  .next (s.withDin (decWordOf b0 b1 b2))

end Sys2Proof.Machine
end

