-- ==== Sys2Proof/Machine/Tokens.lean ====
section
/-! DEFINITION. The meanings of the four tokens (R74 to R77): the cases of the edge rule R73 with `rst = 0`. -/

namespace Sys2Proof.Machine

open Sys2Proof

/-- `NOP`: `done_q <- 0`, and nothing else changes (R74). -/
def execNop (s : State) : Host.Outcome State Fault Refusal :=
  s.edge (.ok (s.scanner.goOn s.scanner.toCapture))

/-- `BYTE d`: `(st, cnt, buf) <- byte_step(st, cnt, buf, d)` and `done_q <- 0` (R75). -/
def execByte (d : Byte) (s : State) : Host.Outcome State Fault Refusal :=
  s.edge ((byteStep s.scanner.toCapture d).map s.scanner.goOn)

/-- `END`: `report(end_step(st, buf))`, then `st <- SEARCH` and `cnt <- 0` (R76). -/
def execEndPacket (s : State) : Host.Outcome State Fault Refusal :=
  s.edge (.ok (s.scanner.finish s.scanner.toCapture))

/-- `LAST d`: the byte is added, and the report sees it (R77). -/
def execLast (d : Byte) (s : State) : Host.Outcome State Fault Refusal :=
  s.edge ((byteStep s.scanner.toCapture d).map s.scanner.finish)

end Sys2Proof.Machine
end

