-- ==== Sys2Proof/Machine/Dispatch.lean ====
section
/-! DEFINITION. One arm per operation of the opcode table. -/

namespace Sys2Proof.Machine

open Sys2Proof

def exec (i : Instr) (s : State) : Host.Outcome State Fault Refusal :=
  match i with
  | .dec24 b0 b1 b2 => Sys2Proof.Machine.execDec24 b0 b1 b2 s
  | .nop => Sys2Proof.Machine.execNop s
  | .byte d => Sys2Proof.Machine.execByte d s
  | .endPacket => Sys2Proof.Machine.execEndPacket s
  | .last d => Sys2Proof.Machine.execLast d s

end Sys2Proof.Machine
end

