-- ==== Sys2Proof/Machine/Step.lean ====
section
/-! DEFINITION. One step: the host's next move. The block fetches no instructions (R14, R41): an operation is what its
input ports carry, so "the next instruction" is the word of the host's next move. -/

namespace Sys2Proof.Machine

open Sys2Proof

/-- One move of the host (R98): a `DEC` word on `din`, or one rising edge of `clk` (R73). -/
def step (s : State) : Host.Outcome State Fault Refusal :=
  match s.takeMove with
  | none => idleStep s
  | some (.rstEdge tok, s1) => resetEdge tok s1
  | some (.present w, s1) => exec (decode w) s1

/-- The host presents the word `w` next, before the moves it already had in mind. Bits that are no input word of the
block cannot be presented, and change nothing. -/
def State.withFetchWord (s : State) (nbits w : Nat) : State :=
  match readWord nbits w with
  | .ok word => s.pushMove (.present word)
  | .error _ => s

end Sys2Proof.Machine
end

