-- ==== Sys2Proof/Machine/Reference.lean ====
section
/-! DEFINITION. Packets (R57, R67) and the reference function `scan` on whole packets (R68). -/

namespace Sys2Proof

/-- Does the operation end the current packet (R67)? -/
def Instr.endsPacket : Instr → Bool
  | .dec24 _ _ _ => false
  | .nop => false
  | .byte _ => false
  | .endPacket => true
  | .last _ => true

/-- The bytes the operation adds to the current packet (R67). -/
def Instr.payload : Instr → List Byte
  | .dec24 _ _ _ => []
  | .nop => []
  | .byte d => [d]
  | .endPacket => []
  | .last d => [d]

end Sys2Proof

namespace Sys2Proof.Machine

open Sys2Proof

/-- The bytes of the packet that a sequence of input words carries: the `d` operands of its `BYTE` and `LAST` tokens,
in order (R67). -/
def payloadOf (ws : List InputWord) : List Byte := ws.flatMap fun w => (decode w).payload

/-- `scan` of R68, steps 3 to 6 of the source, on a packet as a sequence of bytes. -/
def scan (pkt : List Byte) : Report :=
  match pkt.findIdx? (fun b => b == Config.marker) with
  | none => .markerNotFound
  | some m =>
    let i := m + 1
    if pkt.length - i < Config.nFields * Config.fieldBytes then .truncated
    else
      .ok (dec24 (pkt.getD i 0) (pkt.getD (i + 1) 0) (pkt.getD (i + 2) 0))
        (dec24 (pkt.getD (i + 3) 0) (pkt.getD (i + 4) 0) (pkt.getD (i + 5) 0))

/-- `PKT [p0 ... pn]` (R57): `BYTE p0`, ..., `LAST pn`; the empty packet is `END`. -/
def pktTokens : List Byte → List Instr
  | [] => [.endPacket]
  | [b] => [.last b]
  | b :: c :: bs => .byte b :: pktTokens (c :: bs)

/-- The host's moves that send a whole packet on consecutive edges (R57). -/
def pktMoves (pkt : List Byte) : List Move := (pktTokens pkt).map fun i => .present (encode i)

end Sys2Proof.Machine
end

