-- ==== Sys2Proof/Machine/HostSide.lean ====
section
/-! DEFINITION. What the spec says of the HOST around the block: hex text to bytes (R96), signed values to degrees
(R97), and their composition (R99). The block performs none of it (R4), and `step` calls none of it. -/

namespace Sys2Proof.Machine

open Sys2Proof

/-- The three errors of the source's interface (R83, R86). -/
inductive HostError where
  | malformedHexInput
  | markerNotFound
  | truncatedPacket
  deriving DecidableEq, Repr

/-- The value of a hex digit, case-insensitive; `none` for another character (R86, R96). -/
def hexDigit (c : Char) : Option Nat :=
  let n := c.toNat
  if 48 ≤ n ∧ n ≤ 57 then some (n - 48)
  else if 65 ≤ n ∧ n ≤ 70 then some (n - 55)
  else if 97 ≤ n ∧ n ≤ 102 then some (n - 87)
  else none

/-- Step 2 of R96: hex digit pairs to bytes, most significant nibble first; `none` for an odd length or a character
that is no hex digit. -/
def hexPairs : List Char → Option (List Byte)
  | [] => some []
  | [_] => none
  | a :: b :: rest =>
    match hexDigit a, hexDigit b, hexPairs rest with
    | some h, some l, some bs => some (BitVec.ofNat 8 (16 * h + l) :: bs)
    | _, _, _ => none

/-- Step 1 of R96: only the space character is removed. -/
def removeSpaces (text : List Char) : List Char := text.filter fun c => c != ' '

/-- `host_hex` of R96 and R99, on the characters of the host's string. -/
def hostHex (text : List Char) : Except HostError (List Byte) :=
  match hexPairs (removeSpaces text) with
  | some bytes => .ok bytes
  | none => .error .malformedHexInput

/-- `float64(v) / 30000.0` as the 64 bits of an IEEE-754 double, for `v` in the range of R62: one division, rounded to
nearest with ties to even (R97). PRESUMED (the spec's "general knowledge"): the rounding and the format, log entry 5. Unsafe
for claims about a host that rounds otherwise.
With `n = |v|` and `k = floor(log2(n * 2^68 / 30000))`, the binary exponent of `n / 30000` is `k - 68`. -/
def toDegrees (v : Int) : BitVec 64 :=
  let n := v.natAbs
  if n = 0 then 0
  else
    let k := Nat.log2 (n * 2 ^ 68 / Config.scale)
    let x := n * 2 ^ (120 - k)
    let q := x / Config.scale
    let r := x % Config.scale
    let m := if Config.scale < 2 * r ∨ (2 * r = Config.scale ∧ q % 2 = 1) then q + 1 else q
    let sign := if v < 0 then 2 ^ 63 else 0
    BitVec.ofNat 64 (sign + (k + 955) * 2 ^ 52 + (m - 2 ^ 52))

/-- What the host makes of a report: two doubles in degrees, latitude first (R97), or the error (R99). -/
def coordinatesOf : Report → Except HostError (BitVec 64 × BitVec 64)
  | .ok la lo => .ok (toDegrees la, toDegrees lo)
  | .markerNotFound => .error .markerNotFound
  | .truncated => .error .truncatedPacket

/-- `decode_coordinates` of R99. -/
def decodeCoordinates (text : List Char) : Except HostError (BitVec 64 × BitVec 64) :=
  match hostHex text with
  | .error e => .error e
  | .ok bytes => coordinatesOf (scan bytes)

end Sys2Proof.Machine
end

