-- ==== Sys2Proof/Machine/Observe.lean ====
section
/-! DEFINITION. What a host observes of a run (R100): the list of reports it produced. -/

namespace Sys2Proof.Machine

open Sys2Proof

/-- The report present at the scanner's output ports (R48, R79); a build without a scanner has none (R43). -/
def State.reportNow (s : State) : Option Report :=
  if s.build.hasScanner then s.scanner.reportNow else none

/-- Is the host's next move a rising edge of `clk`? Driving `din` is none: the decoder core has no clock (R15). -/
def State.nextIsEdge (s : State) : Bool :=
  match s.moves with
  | .present (.dec _) :: _ => false
  | _ => true

/-- The reports of the run of the next `n` moves: "one report for each edge with `done_q` set, in order" (R100). -/
def observe : Nat → State → List Report
  | 0, _ => []
  | n + 1, s =>
    match step s with
    | .next t => (if s.nextIsEdge then t.reportNow.toList else []) ++ observe n t
    | .fault _ => []
    | .refused _ => []

end Sys2Proof.Machine
end

