-- ==== Sys2Proof/Safety.lean ====
section
/-! DEFINITION. The invariant of the block (R25, R62, R80) and what a run that cannot stop is. -/

namespace Sys2Proof.Machine

open Sys2Proof

/-- The three combinations of `st` and `cnt` of R25. -/
abbrev Capture.Legal (c : Capture) : Prop :=
  (c.st = .search ∧ c.cnt.val = 0) ∨ (c.st = .field ∧ c.cnt.val ≤ 5) ∨ (c.st = .drain ∧ c.cnt.val = 6)

/-- "If `status_q != 00`, then `lat_q = 0` and `lon_q = 0`" (R25, R80). -/
abbrev Scanner.ErrorsAreZero {w : Nat} (sc : Scanner w) : Prop :=
  sc.statusQ ≠ .ok → sc.latQ = 0 ∧ sc.lonQ = 0

/-- The output values lie in the range of `dec24` (R62). -/
abbrev Scanner.InRange {w : Nat} (sc : Scanner w) : Prop :=
  (-8388608 ≤ sc.latQ.toInt ∧ sc.latQ.toInt ≤ 8388607) ∧ (-8388608 ≤ sc.lonQ.toInt ∧ sc.lonQ.toInt ≤ 8388607)

/-- The invariant of the machine: a build the spec admits (R5), and R25 and R62 for the scanner. -/
abbrev State.Inv (s : State) : Prop :=
  s.build.wellFormed = true ∧ s.scanner.toCapture.Legal ∧ s.scanner.ErrorsAreZero ∧ s.scanner.InRange

/-- Every move to come is one that a host of this build can make (R43). -/
abbrev State.MovesFit (s : State) : Prop := ∀ m ∈ s.moves, m.wellFormed s.build = true

/-- A state from which no move stops the machine. -/
abbrev State.Safe (s : State) : Prop := s.Inv ∧ s.MovesFit

end Sys2Proof.Machine
end

