-- ==== Sys2Proof/Certificates/Slice0/Obligations.lean ====
section
/-! DEFINITION. The statements for the provers. They hold for every build of the block that their hypotheses admit, not
for the default build alone, and for every state, reached by a run or not, unless a hypothesis says otherwise. -/

open Sys2Proof Sys2Proof.Machine

/-! ## Encoding -/

/-- R44, R47, R49, R56 (a sanity statement): words written out from the spec's encodings decode to their operations. -/
def Obligations.SpecWordsDecode : Prop :=
  decode (.dec 0xFFFF9C) = .dec24 0xFF 0xFF 0x9C ∧ decode (.dec 0x123456) = .dec24 0x12 0x34 0x56 ∧
  decode (.tok 0x000) = .nop ∧ decode (.tok 0x2A5) = .byte 0xA5 ∧ decode (.tok 0x100) = .endPacket ∧
  decode (.tok 0x332) = .last 0x32

/-- R49, R50: `tok[9:8]` alone selects the token kind, the byte is the operand of `BYTE` and `LAST`, and `NOP` and `END`
are the same operation for every value of `tok[7:0]`; the encoder writes those bits as 0. -/
def Obligations.TokenBitsSelectTheKind : Prop :=
  ∀ d : BitVec 8,
    decode (.tok (0b00#2 ++ d)) = .nop ∧ decode (.tok (0b10#2 ++ d)) = .byte d ∧
    decode (.tok (0b01#2 ++ d)) = .endPacket ∧ decode (.tok (0b11#2 ++ d)) = .last d ∧
    encode .nop = .tok 0x000 ∧ encode .endPacket = .tok 0x100

/-- R49, R53: every token word is selected by exactly one of the four mask and match rows, and decodes to that row's
operation. -/
def Obligations.EveryTokenHasOneRow : Prop :=
  ∀ t : TokWord, ∃ r ∈ opcodeTable, r.selects (.tok t) = true ∧ r.mnemonic = (decode (.tok t)).mnemonic ∧
    ∀ r' ∈ opcodeTable, r'.selects (.tok t) = true → r' = r

/-- R44, R47, R49: decoding the word the encoder writes for an operation gives that operation back, with every operand at
every value. -/
def Obligations.DecodeOfEncode : Prop :=
  ∀ (b : Build) (i : Instr), i.wellFormed b = true → decode (encode i) = i

/-- R44, R47, R50: encoding the decoded operation gives the input word back, but for the byte that `NOP` and `END` ignore,
which is written 0. -/
def Obligations.EncodeOfDecode : Prop :=
  (∀ w : DecWord, encode (decode (.dec w)) = .dec w) ∧
  (∀ t : TokWord, t.getLsbD 9 = true → encode (decode (.tok t)) = .tok t) ∧
  (∀ t : TokWord, t.getLsbD 9 = false → encode (decode (.tok t)) = .tok (t &&& 0x300))

/-- R64: a field of another length than three bytes is refused, neither padded nor truncated, and a field of three bytes
is the decoder core's operand. -/
def Obligations.OtherFieldLengthsAreRefused : Prop :=
  (∀ bytes : List Byte, bytes.length ≠ 3 → decodeField bytes = .error (.fieldLength bytes.length)) ∧
  (∀ b0 b1 b2 : Byte, decodeField [b0, b1, b2] = .ok (.dec24 b0 b1 b2))

/-! ## The decoder core -/

/-- R60: `DEC24` drives `din`, and `dout` is then `bits_OUT_W(dec24(b0, b1, b2))`; nothing else of the machine changes, in
any build and any state. The corner cases of R60 stand last. -/
def Obligations.DecodesASignedField : Prop :=
  (∀ (s : State) (b0 b1 b2 : Byte),
    exec (.dec24 b0 b1 b2) s = .next { s with din := b0 ++ b1 ++ b2 } ∧
    State.dout { s with din := b0 ++ b1 ++ b2 } = BitVec.ofInt s.build.outW
      (if 8388608 ≤ b0.toNat * 65536 + b1.toNat * 256 + b2.toNat
        then ((b0.toNat * 65536 + b1.toNat * 256 + b2.toNat : Nat) : Int) - 16777216
        else ((b0.toNat * 65536 + b1.toNat * 256 + b2.toNat : Nat) : Int))) ∧
  dec24 0x7F 0xFF 0xFF = 8388607 ∧ dec24 0x80 0x00 0x00 = -8388608 ∧ dec24 0xFF 0xFF 0xFF = -1 ∧
  dec24 0x00 0x00 0x00 = 0 ∧ dec24 0x00 0x80 0x00 = 32768 ∧ dec24 0x00 0x00 0x80 = 128 ∧ dec24 0xFF 0xFF 0x9C = -100

/-- R61: `dec24` is two's-complement sign extension: `dec24` of a word is its signed value; `dout[23:0] = din`, and every
higher bit of `dout` is `din[23]`; and for `OUT_W = 24`, `dout` is `din` bit for bit. -/
def Obligations.OutputIsSignExtension : Prop :=
  ∀ s : State, s.build.wellFormed = true →
    dec24 (s.din.extractLsb' 16 8) (s.din.extractLsb' 8 8) (s.din.extractLsb' 0 8) = s.din.toInt ∧
    (∀ k, k < 24 → s.dout.getLsbD k = s.din.getLsbD k) ∧
    (∀ k, 24 ≤ k → k < s.build.outW → s.dout.getLsbD k = s.din.getLsbD 23) ∧
    (s.build.outW = 24 → s.dout.toNat = s.din.toNat)

/-- R62: the range of `dec24` is exactly `[-8388608, 8388607]`, it is a bijection from the input words onto it, and no
output width of at least 24 bits overflows. -/
def Obligations.RangeIsExact : Prop :=
  (∀ b0 b1 b2 : Byte, -8388608 ≤ dec24 b0 b1 b2 ∧ dec24 b0 b1 b2 ≤ 8388607) ∧
  (∀ v : Int, -8388608 ≤ v → v ≤ 8388607 → ∃ b0 b1 b2 : Byte, dec24 b0 b1 b2 = v) ∧
  (∀ a0 a1 a2 b0 b1 b2 : Byte, dec24 a0 a1 a2 = dec24 b0 b1 b2 → a0 = b0 ∧ a1 = b1 ∧ a2 = b2) ∧
  (∀ (n : Nat) (b0 b1 b2 : Byte), 24 ≤ n → (BitVec.ofInt n (dec24 b0 b1 b2)).toInt = dec24 b0 b1 b2)

/-- R63: encoding a value of the range as two's-complement 3-byte big-endian and decoding it returns it exactly. -/
def Obligations.FieldRoundTrip : Prop :=
  ∀ v : Int, -8388608 ≤ v → v ≤ 8388607 →
    dec24 ((BitVec.ofInt 24 v).extractLsb' 16 8) ((BitVec.ofInt 24 v).extractLsb' 8 8)
      ((BitVec.ofInt 24 v).extractLsb' 0 8) = v

/-- R39, R42, R66: the decoder core and the scanner do not touch each other: a token does the same whatever `din` is and
leaves it, `DEC24` leaves every scanner register and every move to come, and `dout` depends on `din` alone. -/
def Obligations.DecoderAndScannerAreIndependent : Prop :=
  (∀ (s : State) (i : Instr) (w : DecWord), i.isToken = true →
    exec i { s with din := w } =
      match exec i s with
      | .next t => .next { t with din := w }
      | .fault f => .fault f
      | .refused r => .refused r) ∧
  (∀ (s t : State) (i : Instr), i.isToken = true → exec i s = .next t → t.din = s.din) ∧
  (∀ (s t : State) (i : Instr), i.isToken = false → exec i s = .next t → t = { s with din := t.din }) ∧
  (∀ (s : State) (sc : Scanner s.build.outW) (ms : List Move), State.dout { s with scanner := sc, moves := ms } = s.dout)

/-! ## The tokens -/

/-- R74, R50: `NOP` clears `done_q` and changes nothing else, in every phase of the packet and for every `in_byte`. -/
def Obligations.NopOnlyClearsDone : Prop :=
  (∀ d : Byte, decode (.tok (0b00#2 ++ d)) = .nop) ∧
  ∀ s : State, s.build.hasScanner = true →
    exec .nop s = .next { s with scanner := { s.scanner with doneQ := false } }

/-- R71, R75: `BYTE d`, phase by phase. In `SEARCH`, `0x25` starts the fields and any other byte is ignored; in `FIELD` the
byte is captured whatever its value, and the sixth one moves to `DRAIN`; in `DRAIN` every byte is ignored. `done_q` is
cleared, and no other register changes. -/
def Obligations.ByteAddsOneByte : Prop :=
  (∀ d : Byte, decode (.tok (0b10#2 ++ d)) = .byte d) ∧
  ∀ (s : State) (d : Byte), s.build.hasScanner = true →
    (s.scanner.st = .search → d = 0x25 →
      exec (.byte d) s = .next { s with scanner := { s.scanner with st := .field, cnt := 0, doneQ := false } }) ∧
    (s.scanner.st = .search → d ≠ 0x25 →
      exec (.byte d) s = .next { s with scanner := { s.scanner with st := .search, cnt := 0, doneQ := false } }) ∧
    (∀ h : s.scanner.cnt.val < 6, s.scanner.st = .field →
      exec (.byte d) s = .next { s with scanner := { s.scanner with
        st := if s.scanner.cnt.val = 5 then .drain else .field,
        cnt := ⟨s.scanner.cnt.val + 1, Nat.succ_lt_succ h⟩,
        buf := s.scanner.buf.set s.scanner.cnt.val d h, doneQ := false } }) ∧
    (s.scanner.st = .drain →
      exec (.byte d) s = .next { s with scanner := { s.scanner with st := .drain, cnt := 6, doneQ := false } })

/-- R70, R72, R76: `END` reports by the phase the packet ends in and starts the next packet. In `SEARCH` the report is
`MARKER_NOT_FOUND`, in `FIELD`, whatever `cnt`, `TRUNCATED`, both with zeros in `lat_q` and `lon_q`; in `DRAIN` it is `OK`
with the two decoded fields. `buf` keeps its value. -/
def Obligations.EndReportsThePacket : Prop :=
  (∀ d : Byte, decode (.tok (0b01#2 ++ d)) = .endPacket) ∧
  ∀ s : State, s.build.hasScanner = true →
    exec .endPacket s = .next { s with scanner := { s.scanner with
      st := .search, cnt := 0, doneQ := true,
      statusQ := match s.scanner.st with
        | .search => .markerNotFound
        | .field => .truncated
        | .drain => .ok,
      latQ := match s.scanner.st with
        | .search => 0
        | .field => 0
        | .drain => BitVec.ofInt s.build.outW (dec24 s.scanner.buf[0] s.scanner.buf[1] s.scanner.buf[2]),
      lonQ := match s.scanner.st with
        | .search => 0
        | .field => 0
        | .drain => BitVec.ofInt s.build.outW (dec24 s.scanner.buf[3] s.scanner.buf[4] s.scanner.buf[5]) } }

/-- R77: `LAST d`, case by case: the byte is added, the report sees it, and the next packet starts. -/
def Obligations.LastAddsItsByteAndReports : Prop :=
  (∀ d : Byte, decode (.tok (0b11#2 ++ d)) = .last d) ∧
  ∀ (s : State) (d : Byte), s.build.hasScanner = true →
    (s.scanner.st = .search → d = 0x25 →
      exec (.last d) s = .next { s with scanner := { s.scanner with
        st := .search, cnt := 0, doneQ := true, statusQ := .truncated, latQ := 0, lonQ := 0 } }) ∧
    (s.scanner.st = .search → d ≠ 0x25 →
      exec (.last d) s = .next { s with scanner := { s.scanner with
        st := .search, cnt := 0, doneQ := true, statusQ := .markerNotFound, latQ := 0, lonQ := 0 } }) ∧
    (∀ h : s.scanner.cnt.val < 6, s.scanner.st = .field → s.scanner.cnt.val < 5 →
      exec (.last d) s = .next { s with scanner := { s.scanner with
        st := .search, cnt := 0, buf := s.scanner.buf.set s.scanner.cnt.val d h,
        doneQ := true, statusQ := .truncated, latQ := 0, lonQ := 0 } }) ∧
    (s.scanner.st = .field → s.scanner.cnt.val = 5 →
      exec (.last d) s = .next { s with scanner := { s.scanner with
        st := .search, cnt := 0, buf := s.scanner.buf.set 5 d, doneQ := true, statusQ := .ok,
        latQ := BitVec.ofInt s.build.outW (dec24 s.scanner.buf[0] s.scanner.buf[1] s.scanner.buf[2]),
        lonQ := BitVec.ofInt s.build.outW (dec24 s.scanner.buf[3] s.scanner.buf[4] d) } }) ∧
    (s.scanner.st = .drain →
      exec (.last d) s = .next { s with scanner := { s.scanner with
        st := .search, cnt := 0, doneQ := true, statusQ := .ok,
        latQ := BitVec.ofInt s.build.outW (dec24 s.scanner.buf[0] s.scanner.buf[1] s.scanner.buf[2]),
        lonQ := BitVec.ofInt s.build.outW (dec24 s.scanner.buf[3] s.scanner.buf[4] s.scanner.buf[5]) } })

/-- R57, R77: `LAST d` is `BYTE d` followed by `END`, in every state: the next state is the same, and the one stops exactly
where the other does, for the same reason. -/
def Obligations.LastIsByteThenEnd : Prop :=
  ∀ (s : State) (d : Byte),
    exec (.last d) s =
      match exec (.byte d) s with
      | .next t => exec .endPacket t
      | .fault f => .fault f
      | .refused r => .refused r

/-- R73: at one rising edge the scanner does exactly what the edge rule says of (`rst`, `v`, `e`, `d`): with `rst = 0`,
`byte_step` where `v = 1`, then the report of `end_step` and a new packet where `e = 1`, else `done_q <- 0`; with
`rst = 1`, reset. -/
def Obligations.EdgeRule : Prop :=
  (∀ (s : State) (t : TokWord) (rest : List Move), s.build.hasScanner = true → s.moves = .present (.tok t) :: rest →
    step s =
      match (if t.getLsbD 9 = true then byteStep s.scanner.toCapture (t.extractLsb' 0 8)
        else .ok s.scanner.toCapture) with
      | .error f => .fault f
      | .ok c1 =>
        if t.getLsbD 8 = true then
          .next { s with
            moves := rest,
            scanner := {
              st := .search, cnt := 0, buf := c1.buf, doneQ := true,
              statusQ := (endStep s.build.outW c1).1, latQ := (endStep s.build.outW c1).2.1,
              lonQ := (endStep s.build.outW c1).2.2 } }
        else
          .next { s with
            moves := rest,
            scanner := {
              st := c1.st, cnt := c1.cnt, buf := c1.buf, doneQ := false,
              statusQ := s.scanner.statusQ, latQ := s.scanner.latQ, lonQ := s.scanner.lonQ } }) ∧
  (∀ (s : State) (t : TokWord) (rest : List Move), s.build.hasScanner = true → s.moves = .rstEdge t :: rest →
    step s = .next { s with
      moves := rest,
      scanner := {
        st := .search, cnt := 0, buf := s.scanner.buf, doneQ := false, statusQ := .ok,
        latQ := 0, lonQ := 0 } })

/-- R22, R78: `done_q` is 1 after exactly the edges that report, which are the edges of `END` and `LAST`, and 0 after every
other token. -/
def Obligations.DoneMarksReportingEdges : Prop :=
  ∀ (s t : State) (i : Instr), i.isToken = true → exec i s = .next t → t.scanner.doneQ = i.endsPacket

/-- R79: `status_q`, `lat_q` and `lon_q` keep the latest report's values at every step that is neither the end of a packet
nor a reset; and they are a report only where `done` is 1. (`toNat`, since the width is the state's own; `build` is
unchanged.) -/
def Obligations.OutputsHoldBetweenReports : Prop :=
  (∀ s t : State, step s = .next t → (∀ tok rest, s.moves ≠ .rstEdge tok :: rest) →
    (∀ w rest, s.moves = .present w :: rest → (decode w).endsPacket = false) →
    t.build = s.build ∧ t.scanner.statusQ = s.scanner.statusQ ∧
    t.scanner.latQ.toNat = s.scanner.latQ.toNat ∧ t.scanner.lonQ.toNat = s.scanner.lonQ.toNat) ∧
  (∀ s : State, s.scanner.doneQ = false → s.reportNow = none)

/-- R5, R16, R20: the frame of every operation: the build and the moves to come are unchanged; `st` and `cnt` are changed
only by tokens; and `buf` changes only where a byte is accepted with `st = FIELD`, at index `cnt` alone. -/
def Obligations.EveryOperationHasItsFrame : Prop :=
  ∀ (s t : State) (i : Instr), exec i s = .next t →
    t.build = s.build ∧ t.moves = s.moves ∧
    (i.isToken = false → t.scanner.toCapture = s.scanner.toCapture) ∧
    ((i.payload = [] ∨ s.scanner.st ≠ .field) → t.scanner.buf = s.scanner.buf) ∧
    (∀ d, i.payload = [d] → s.scanner.st = .field → ∃ h : s.scanner.cnt.val < 6,
      t.scanner.buf = s.scanner.buf.set s.scanner.cnt.val d h)

/-- Derived from R71, R19 and R25, with the model's own stop (log entry 3): a byte in `FIELD` with `cnt = 6`, a state no run
reaches, stops the model, and no other state does. -/
def Obligations.FaultOnlyWithoutACaptureSlot : Prop :=
  ∀ (s : State) (i : Instr) (f : Fault),
    exec i s = .fault f ↔
      s.build.hasScanner = true ∧ s.scanner.st = .field ∧ s.scanner.cnt.val = 6 ∧ i.payload ≠ [] ∧
        f = .captureIndexOutOfRange

/-- Derived from R27, R43 and R59: without a scanner the decoder core works as ever, there are no scanner outputs, and the
model refuses the tokens and the reset edge, for which such a build has no ports. -/
def Obligations.DecoderOnlyBuild : Prop :=
  ∀ s : State, s.build.hasScanner = false →
    s.rep = none ∧ s.reportNow = none ∧
    (∀ b0 b1 b2, exec (.dec24 b0 b1 b2) s = .next { s with din := b0 ++ b1 ++ b2 }) ∧
    (∀ i : Instr, i.isToken = true → exec i s = .refused .noScannerPorts) ∧
    (∀ tok rest, s.moves = .rstEdge tok :: rest → step s = .refused .noScannerPorts)

/-- R21, R43, R48: the output registers drive the output ports directly, in a build that has them. -/
def Obligations.OutputPortsShowTheRegisters : Prop :=
  ∀ s : State, s.build.hasScanner = true →
    s.rep = some { done := s.scanner.doneQ, status := s.scanner.statusQ.code, lat := s.scanner.latQ, lon := s.scanner.lonQ }

/-- R51, R52: the codes of `status` and `st` are as listed and `11` is none of them, and the code of `cnt` is its value and
never 7. -/
def Obligations.CodesAreAsListed : Prop :=
  Status.code .ok = 0b00 ∧ Status.code .markerNotFound = 0b01 ∧ Status.code .truncated = 0b10 ∧
  (∀ q : Status, q.code ≠ 0b11) ∧
  Phase.code .search = 0b00 ∧ Phase.code .field = 0b01 ∧ Phase.code .drain = 0b10 ∧ (∀ p : Phase, p.code ≠ 0b11) ∧
  (∀ c : Capture, c.cntCode.toNat = c.cnt.val ∧ c.cntCode ≠ 7)

/-- R110: a token held for two edges counts once per edge: `BYTE d` held for two edges adds `d` twice. -/
def Obligations.AHeldTokenCountsTwice : Prop :=
  ∀ (s : State) (d : Byte) (rest : List Move), s.build.hasScanner = true → s.scanner.st = .field →
    s.scanner.cnt.val < 5 → s.moves = .present (encode (.byte d)) :: .present (encode (.byte d)) :: rest →
    ∃ t, Sys2Proof.core.run 2 s = .next t ∧ t.moves = rest ∧ t.scanner.cnt.val = s.scanner.cnt.val + 2 ∧
      t.scanner.buf[s.scanner.cnt.val]? = some d ∧ t.scanner.buf[s.scanner.cnt.val + 1]? = some d

/-! ## The step, reset and the invariant -/

/-- R98, R107: when the host's next move presents an input word, the step is the decoded operation's, on the state with that
move made. -/
def Obligations.StepRunsThePresentedWord : Prop :=
  ∀ (s : State) (w : InputWord) (rest : List Move), s.moves = .present w :: rest →
    step s = exec (decode w) { s with moves := rest }

/-- R101, R102, R103: at an edge with `rst = 1` the token, whatever it is, is discarded and the scanner is reset; `buf` keeps
its value. -/
def Obligations.ResetEdgeDiscardsTheToken : Prop :=
  ∀ (s : State) (tok : TokWord) (rest : List Move), s.build.hasScanner = true → s.moves = .rstEdge tok :: rest →
    step s = .next { s with
      moves := rest,
      scanner := { s.scanner with st := .search, cnt := 0, doneQ := false, statusQ := .ok, latQ := 0, lonQ := 0 } }

/-- R26: the scanner's registers after reset, in every build (`buf` is unspecified, and this says nothing of it). -/
def Obligations.ResetLeavesTheListedValues : Prop :=
  ∀ b : Build,
    (State.resetOf b).scanner.st = .search ∧ (State.resetOf b).scanner.cnt.val = 0 ∧
    (State.resetOf b).scanner.doneQ = false ∧ (State.resetOf b).scanner.statusQ.code = 0b00 ∧
    (State.resetOf b).scanner.latQ = 0 ∧ (State.resetOf b).scanner.lonQ = 0

/-- R25, R62: the invariant holds right after reset, in every build the spec admits. -/
def Obligations.InvariantAtReset : Prop :=
  ∀ b : Build, b.wellFormed = true → (State.resetOf b).Inv

/-- R25, R62, R80: every step keeps the invariant: `st` and `cnt` agree, an error report's `lat_q` and `lon_q` are zero, and
the output values stay in the range of `dec24`. -/
def Obligations.EveryStepKeepsTheInvariant : Prop :=
  ∀ s t : State, s.Inv → step s = .next t → t.Inv

/-- R53, R87, R110: from a state that meets the invariant, with moves that the build's ports admit, every step is accepted
and the next state is again such a state; so no run stops. -/
def Obligations.NoMoveStopsASafeMachine : Prop :=
  ∀ (n : Nat) (s : State), s.Safe → ∃ t, Sys2Proof.core.run n s = .next t ∧ t.Safe

/-! ## Whole packets -/

/-- R68, R69: the reference function on every packet. It reports `MARKER_NOT_FOUND` exactly when no byte is `0x25`, and
`TRUNCATED` exactly when fewer than 6 bytes follow the first `0x25`; else it decodes the six bytes after the first `0x25`,
latitude first, and ignores the bytes before it and after them, `0x25` among them or not. -/
def Obligations.ScanIsTheReferenceFunction : Prop :=
  (∀ pkt : List Byte, scan pkt = .markerNotFound ↔ (0x25 : Byte) ∉ pkt) ∧
  (∀ pkt : List Byte, scan pkt = .truncated ↔
    ∃ before after, pkt = before ++ (0x25 : Byte) :: after ∧ (0x25 : Byte) ∉ before ∧ after.length < 6) ∧
  (∀ (before after : List Byte) (a0 a1 a2 o0 o1 o2 : Byte), (0x25 : Byte) ∉ before →
    scan (before ++ 0x25 :: a0 :: a1 :: a2 :: o0 :: o1 :: o2 :: after) = .ok (dec24 a0 a1 a2) (dec24 o0 o1 o2))

/-- R81: the state after a prefix of a packet, whatever `NOP`s and `DEC24`s stand among its bytes. -/
def Obligations.StateAfterAPacketPrefix : Prop :=
  ∀ (s : State) (body : List InputWord) (rest : List Move),
    s.build.hasScanner = true → s.scanner.st = .search → s.scanner.cnt.val = 0 →
    (∀ w ∈ body, (decode w).endsPacket = false) → s.moves = body.map .present ++ rest →
    ∃ t, Sys2Proof.core.run body.length s = .next t ∧ t.moves = rest ∧
      ((0x25 : Byte) ∉ payloadOf body → t.scanner.st = .search ∧ t.scanner.cnt.val = 0) ∧
      (∀ before after, payloadOf body = before ++ (0x25 : Byte) :: after → (0x25 : Byte) ∉ before →
        (after.length < 6 → t.scanner.st = .field ∧ t.scanner.cnt.val = after.length ∧
          ∀ k, k < after.length → t.scanner.buf[k]? = after[k]?) ∧
        (6 ≤ after.length → t.scanner.st = .drain ∧ t.scanner.cnt.val = 6 ∧
          ∀ k, k < 6 → t.scanner.buf[k]? = after[k]?))

/-- R81: the scanner agrees with the reference function: from a packet boundary, with any `buf`, any `NOP`s between the
bytes and either way of ending the packet, it reports exactly once, at the ending edge, what `scan` says of the packet's
bytes, and is at a boundary again. -/
def Obligations.ScannerAgreesWithScan : Prop :=
  ∀ (s : State) (body : List InputWord) (ending : InputWord) (rest : List Move),
    s.build.wellFormed = true → s.build.hasScanner = true → s.scanner.st = .search → s.scanner.cnt.val = 0 →
    (∀ w ∈ body, (decode w).endsPacket = false) → (decode ending).endsPacket = true →
    s.moves = (body ++ [ending]).map .present ++ rest →
    observe body.length s = [] ∧ observe (body.length + 1) s = [scan (payloadOf (body ++ [ending]))] ∧
    ∃ t, Sys2Proof.core.run (body.length + 1) s = .next t ∧ t.moves = rest ∧ t.build = s.build ∧
      t.scanner.st = .search ∧ t.scanner.cnt.val = 0 ∧ t.scanner.doneQ = true ∧
      t.reportNow = some (scan (payloadOf (body ++ [ending])))

/-- R90, R91, R92, R100, R111: a stream of packets with no gap between them, sent from any packet boundary, whatever `buf`
and the output registers hold there, gives one report for each packet, in order; each report is `scan` of that packet's own
bytes; and the scanner is at a boundary again. -/
def Obligations.OneReportForEachPacket : Prop :=
  ∀ (s : State) (packets : List (List Byte)) (rest : List Move),
    s.build.wellFormed = true → s.build.hasScanner = true → s.scanner.st = .search → s.scanner.cnt.val = 0 →
    s.moves = packets.flatMap pktMoves ++ rest →
    observe (packets.flatMap pktMoves).length s = packets.map scan ∧
    ∃ t, Sys2Proof.core.run (packets.flatMap pktMoves).length s = .next t ∧ t.moves = rest ∧ t.build = s.build ∧
      t.scanner.st = .search ∧ t.scanner.cnt.val = 0

/-- R106: a reset in the middle of a packet abandons that packet: no report is made for it, and the bytes sent after the
reset edge form a new packet. -/
def Obligations.ResetAbandonsAPacket : Prop :=
  ∀ (s : State) (body : List InputWord) (tok : TokWord) (pkt : List Byte),
    s.Inv → s.build.hasScanner = true → (∀ w ∈ body, (decode w).endsPacket = false) →
    s.moves = body.map .present ++ .rstEdge tok :: pktMoves pkt →
    observe s.moves.length s = [scan pkt]

/-- R20, R81, R9: what `buf` holds at a packet boundary is never observable: two machines that differ in it alone answer the
same next states but for `buf`, for ever, and give the same reports. -/
def Obligations.StaleBufferIsUnobservable : Prop :=
  ∀ (s : State) (buf : Buf) (n : Nat), s.scanner.st = .search →
    observe n { s with scanner := { s.scanner with buf := buf } } = observe n s ∧
    ∀ t, Sys2Proof.core.run n s = .next t → ∃ buf' : Buf,
      Sys2Proof.core.run n { s with scanner := { s.scanner with buf := buf } } =
        .next { t with scanner := { t.scanner with buf := buf' } }

/-- Derived from R10, R74 and R95, with the model's own reading of a host that has presented nothing (log entry 4): such a
step is an edge with `NOP`, and in a build without a scanner it changes nothing. -/
def Obligations.NothingPresentedIsNop : Prop :=
  ∀ s : State, s.moves = [] →
    (s.build.hasScanner = true → step s = .next { s with scanner := { s.scanner with doneQ := false } }) ∧
    (s.build.hasScanner = false → step s = .next s)

/-! ## The host around the block -/

/-- R86, R96: the host's conversion fails exactly when, after the space characters are removed, the text has odd length or
holds a character outside `[0-9a-fA-F]`. -/
def Obligations.MalformedHexExactly : Prop :=
  ∀ text : List Char,
    hostHex text = .error .malformedHexInput ↔
      (text.filter fun c => c != ' ').length % 2 = 1 ∨
      ∃ c ∈ text, c ≠ ' ' ∧ c ∉ ("0123456789abcdefABCDEF".toList)

/-- R96: hex text, in capitals or small letters and with a space after each byte, gives its bytes back, most significant
nibble first. -/
def Obligations.HexTextGivesItsBytes : Prop :=
  ∀ (digits : List Char) (bytes : List Byte),
    digits = "0123456789abcdef".toList ∨ digits = "0123456789ABCDEF".toList →
    hostHex (bytes.flatMap fun b => [digits.getD (b.toNat / 16) '0', digits.getD (b.toNat % 16) '0', ' ']) = .ok bytes

/-- The spec's general knowledge about R97, as the model takes it (log entry 5): the double the host computes is the value of `v / 30000` rounded to nearest, ties to even: with sign, exponent field
`E` and significand `M = 2^52 + fraction`, the value is `M * 2^(E - 1075)`, and it misses `|v| / 30000` by at most half a
unit in the last place. -/
def Obligations.DegreesAreRoundedToNearest : Prop :=
  toDegrees 0 = 0 ∧
  ∀ v : Int, -8388608 ≤ v → v ≤ 8388607 → v ≠ 0 →
    ∃ (E M : Nat), 0 < E ∧ E < 1075 ∧ 2 ^ 52 ≤ M ∧ M < 2 ^ 53 ∧
      (toDegrees v).toNat = (if v < 0 then 2 ^ 63 else 0) + E * 2 ^ 52 + (M - 2 ^ 52) ∧
      2 * M * 30000 ≤ 2 * v.natAbs * 2 ^ (1075 - E) + 30000 ∧ 2 * v.natAbs * 2 ^ (1075 - E) ≤ 2 * M * 30000 + 30000 ∧
      ((2 * M * 30000 = 2 * v.natAbs * 2 ^ (1075 - E) + 30000 ∨
        2 * v.natAbs * 2 ^ (1075 - E) = 2 * M * 30000 + 30000) → M % 2 = 0)

/-- R99: `decode_coordinates` is the composition of the host's hex conversion, one packet sent to the block from any packet
boundary, whatever `buf` and the output registers hold there, and the host's conversion of the one report it gives. -/
def Obligations.CoordinatesThroughTheBlock : Prop :=
  ∀ (s : State) (text : List Char) (rest : List Move),
    s.build.wellFormed = true → s.build.hasScanner = true → s.scanner.st = .search → s.scanner.cnt.val = 0 →
    (∀ e, hostHex text = .error e → decodeCoordinates text = .error e) ∧
    (∀ bytes, hostHex text = .ok bytes → s.moves = pktMoves bytes ++ rest → ∃ r,
      observe (pktMoves bytes).length s = [r] ∧
      decodeCoordinates text =
        match r with
        | .ok la lo => .ok (toDegrees la, toDegrees lo)
        | .markerNotFound => .error .markerNotFound
        | .truncated => .error .truncatedPacket)
end

