-- ==== Sys2Proof/Laws/State.lean ====
section
/-! SUPPORT. One lemma per field per update of the state, so that no proof unfolds a record update. -/

namespace Sys2Proof.Machine

variable (s : State)

@[simp] theorem State.withScanner_build (sc) : (s.withScanner sc).build = s.build := rfl
@[simp] theorem State.withScanner_scanner (sc) : (s.withScanner sc).scanner = sc := rfl
@[simp] theorem State.withScanner_din (sc) : (s.withScanner sc).din = s.din := rfl
@[simp] theorem State.withScanner_moves (sc) : (s.withScanner sc).moves = s.moves := rfl

@[simp] theorem State.withDin_build (w) : (s.withDin w).build = s.build := rfl
@[simp] theorem State.withDin_scanner (w) : (s.withDin w).scanner = s.scanner := rfl
@[simp] theorem State.withDin_din (w) : (s.withDin w).din = w := rfl
@[simp] theorem State.withDin_moves (w) : (s.withDin w).moves = s.moves := rfl

@[simp] theorem State.withMoves_build (ms) : (s.withMoves ms).build = s.build := rfl
@[simp] theorem State.withMoves_scanner (ms) : (s.withMoves ms).scanner = s.scanner := rfl
@[simp] theorem State.withMoves_din (ms) : (s.withMoves ms).din = s.din := rfl
@[simp] theorem State.withMoves_moves (ms) : (s.withMoves ms).moves = ms := rfl

@[simp] theorem State.resetOf_build (b : Build) : (State.resetOf b).build = b := rfl
@[simp] theorem State.resetOf_scanner (b : Build) : (State.resetOf b).scanner = Scanner.atReset b.outW := rfl
@[simp] theorem State.resetOf_moves (b : Build) : (State.resetOf b).moves = [] := rfl

@[simp] theorem Capture.nextPacket_st (c : Capture) : c.nextPacket.st = .search := rfl
@[simp] theorem Capture.nextPacket_cnt (c : Capture) : c.nextPacket.cnt = 0 := rfl
@[simp] theorem Capture.nextPacket_buf (c : Capture) : c.nextPacket.buf = c.buf := rfl

variable {w : Nat} (sc : Scanner w)

@[simp] theorem Scanner.report_toCapture (code la lo) : (sc.report code la lo).toCapture = sc.toCapture := rfl
@[simp] theorem Scanner.report_doneQ (code la lo) : (sc.report code la lo).doneQ = true := rfl
@[simp] theorem Scanner.report_statusQ (code la lo) : (sc.report code la lo).statusQ = code := rfl
@[simp] theorem Scanner.report_latQ (code la lo) : (sc.report code la lo).latQ = la := rfl
@[simp] theorem Scanner.report_lonQ (code la lo) : (sc.report code la lo).lonQ = lo := rfl

@[simp] theorem Scanner.noReport_toCapture : sc.noReport.toCapture = sc.toCapture := rfl
@[simp] theorem Scanner.noReport_doneQ : sc.noReport.doneQ = false := rfl
@[simp] theorem Scanner.noReport_statusQ : sc.noReport.statusQ = sc.statusQ := rfl
@[simp] theorem Scanner.noReport_latQ : sc.noReport.latQ = sc.latQ := rfl
@[simp] theorem Scanner.noReport_lonQ : sc.noReport.lonQ = sc.lonQ := rfl

@[simp] theorem Scanner.goOn_toCapture (c) : (sc.goOn c).toCapture = c := rfl
@[simp] theorem Scanner.goOn_doneQ (c) : (sc.goOn c).doneQ = false := rfl
@[simp] theorem Scanner.goOn_statusQ (c) : (sc.goOn c).statusQ = sc.statusQ := rfl
@[simp] theorem Scanner.goOn_latQ (c) : (sc.goOn c).latQ = sc.latQ := rfl
@[simp] theorem Scanner.goOn_lonQ (c) : (sc.goOn c).lonQ = sc.lonQ := rfl

@[simp] theorem Scanner.finish_toCapture (c) : (sc.finish c).toCapture = c.nextPacket := rfl
@[simp] theorem Scanner.finish_doneQ (c) : (sc.finish c).doneQ = true := rfl
@[simp] theorem Scanner.finish_statusQ (c) : (sc.finish c).statusQ = (endStep w c).1 := rfl
@[simp] theorem Scanner.finish_latQ (c) : (sc.finish c).latQ = (endStep w c).2.1 := rfl
@[simp] theorem Scanner.finish_lonQ (c) : (sc.finish c).lonQ = (endStep w c).2.2 := rfl

@[simp] theorem Scanner.reset_st : sc.reset.st = .search := rfl
@[simp] theorem Scanner.reset_cnt : sc.reset.cnt = 0 := rfl
@[simp] theorem Scanner.reset_buf : sc.reset.buf = sc.buf := rfl
@[simp] theorem Scanner.reset_doneQ : sc.reset.doneQ = false := rfl
@[simp] theorem Scanner.reset_statusQ : sc.reset.statusQ = .ok := rfl
@[simp] theorem Scanner.reset_latQ : sc.reset.latQ = 0 := rfl
@[simp] theorem Scanner.reset_lonQ : sc.reset.lonQ = 0 := rfl

end Sys2Proof.Machine
end

