-- ==== Sys2Proof/Laws/Operands.lean ====
section
/-! SUPPORT. What the field value of R45 and R60 can be, once. -/

namespace Sys2Proof.Machine

open Sys2Proof

/-- A field's unsigned value has 24 bits (R45). -/
theorem fieldUnsigned_lt (b0 b1 b2 : Byte) : fieldUnsigned b0 b1 b2 < 16777216 := by
  have h0 := b0.isLt
  have h1 := b1.isLt
  have h2 := b2.isLt
  unfold fieldUnsigned
  omega

/-- The two cases of `dec24`, with the unsigned value they come from. -/
theorem dec24_cases (b0 b1 b2 : Byte) :
    (fieldUnsigned b0 b1 b2 < 8388608 ∧ dec24 b0 b1 b2 = fieldUnsigned b0 b1 b2) ∨
    (8388608 ≤ fieldUnsigned b0 b1 b2 ∧ dec24 b0 b1 b2 = (fieldUnsigned b0 b1 b2 : Int) - 16777216) := by
  rcases Nat.lt_or_ge (fieldUnsigned b0 b1 b2) 8388608 with h | h
  · exact .inl ⟨h, by simp [dec24, Nat.not_le.mpr h]⟩
  · exact .inr ⟨h, by simp [dec24, h]⟩

/-- A `DEC` word is the field of its three bytes (R44, R45). -/
theorem fieldUnsigned_word (w : DecWord) : fieldUnsigned (decB0 w) (decB1 w) (decB2 w) = w.toNat := by
  have h := w.isLt
  simp only [fieldUnsigned, decB0, decB1, decB2, BitVec.extractLsb'_toNat, Nat.shiftRight_eq_div_pow]
  omega

/-- A composed word's value is the field's (R44, R45). -/
theorem decWordOf_toNat (b0 b1 b2 : Byte) : (decWordOf b0 b1 b2).toNat = fieldUnsigned b0 b1 b2 := by
  have h1 := b1.isLt
  have h2 := b2.isLt
  simp only [decWordOf, BitVec.toNat_append, fieldUnsigned]
  rw [← Nat.shiftLeft_add_eq_or_of_lt h2, ← Nat.shiftLeft_add_eq_or_of_lt h1]
  simp only [Nat.shiftLeft_eq]
  omega

/-- The three bytes of a composed word are the bytes it was composed of (R44). -/
@[simp] theorem decB0_decWordOf (b0 b1 b2 : Byte) : decB0 (decWordOf b0 b1 b2) = b0 := by
  apply BitVec.eq_of_toNat_eq
  have h1 := b1.isLt
  have h2 := b2.isLt
  simp only [decB0, BitVec.extractLsb'_toNat, Nat.shiftRight_eq_div_pow, decWordOf_toNat, fieldUnsigned]
  omega

@[simp] theorem decB1_decWordOf (b0 b1 b2 : Byte) : decB1 (decWordOf b0 b1 b2) = b1 := by
  apply BitVec.eq_of_toNat_eq
  have h1 := b1.isLt
  have h2 := b2.isLt
  simp only [decB1, BitVec.extractLsb'_toNat, Nat.shiftRight_eq_div_pow, decWordOf_toNat, fieldUnsigned]
  omega

@[simp] theorem decB2_decWordOf (b0 b1 b2 : Byte) : decB2 (decWordOf b0 b1 b2) = b2 := by
  apply BitVec.eq_of_toNat_eq
  have h1 := b1.isLt
  have h2 := b2.isLt
  simp only [decB2, BitVec.extractLsb'_toNat, Nat.shiftRight_eq_div_pow, decWordOf_toNat, fieldUnsigned]
  omega

end Sys2Proof.Machine
end

