-- ==== Sys2Proof/Laws/Ops.lean ====
section
/-! SUPPORT. One lemma per shared operation that says everything it can do. -/

namespace Sys2Proof.Machine

open Sys2Proof

/-- What one byte does where the capture registers are legal (R71). -/
theorem byteStep_cases (c : Capture) (b : Byte) :
    (c.st = .search ∧ b = Config.marker ∧ byteStep c b = .ok { st := .field, cnt := 0, buf := c.buf }) ∨
    (c.st = .search ∧ b ≠ Config.marker ∧ byteStep c b = .ok { st := .search, cnt := 0, buf := c.buf }) ∨
    (∃ h : c.cnt.val < 6, c.st = .field ∧ c.cnt.val = 5 ∧
      byteStep c b = .ok { st := .drain, cnt := 6, buf := c.buf.set c.cnt.val b h }) ∨
    (∃ h : c.cnt.val < 6, c.st = .field ∧ c.cnt.val < 5 ∧
      byteStep c b = .ok { st := .field, cnt := ⟨c.cnt.val + 1, by omega⟩, buf := c.buf.set c.cnt.val b h }) ∨
    (c.st = .field ∧ c.cnt.val = 6 ∧ byteStep c b = .error .captureIndexOutOfRange) ∨
    (c.st = .drain ∧ byteStep c b = .ok { st := .drain, cnt := 6, buf := c.buf }) := by
  obtain ⟨st, cnt, buf⟩ := c
  cases st with
  | search =>
    by_cases hb : b = Config.marker
    · exact .inl ⟨rfl, hb, by simp only [byteStep, if_pos hb]⟩
    · exact .inr (.inl ⟨rfl, hb, by simp only [byteStep, if_neg hb]⟩)
  | drain => simp [byteStep]
  | field =>
    have hlt := cnt.isLt
    by_cases h : cnt.val < 6
    · by_cases h5 : cnt.val = 5
      · simp [byteStep, h5]
      · have hlt5 : cnt.val < 5 := by omega
        refine .inr (.inr (.inr (.inl ⟨h, rfl, hlt5, ?_⟩)))
        simp only [byteStep, dif_pos h, if_neg h5]
    · have h6 : cnt.val = 6 := by omega
      exact .inr (.inr (.inr (.inr (.inl ⟨rfl, h6, by simp only [byteStep, dif_neg h]⟩))))

/-- On legal capture registers a byte is always accepted, and they stay legal (R25, R71). -/
theorem byteStep_legal {c : Capture} (b : Byte) (hc : c.Legal) : ∃ c', byteStep c b = .ok c' ∧ c'.Legal := by
  rcases byteStep_cases c b with ⟨_, _, h⟩ | ⟨_, _, h⟩ | ⟨_, _, _, h⟩ | ⟨_, _, h5, h⟩ | ⟨hs, h6, _⟩ | ⟨_, h⟩
  · exact ⟨_, h, .inr (.inl ⟨rfl, Nat.zero_le _⟩)⟩
  · exact ⟨_, h, .inl ⟨rfl, rfl⟩⟩
  · exact ⟨_, h, .inr (.inr ⟨rfl, rfl⟩)⟩
  · exact ⟨_, h, .inr (.inl ⟨rfl, by simp only; omega⟩)⟩
  · rcases hc with ⟨h, _⟩ | ⟨_, h⟩ | ⟨h, _⟩ <;> simp_all
  · exact ⟨_, h, .inr (.inr ⟨rfl, rfl⟩)⟩

/-- The three reports (R72). -/
theorem endStep_cases (w : Nat) (c : Capture) :
    (c.st = .search ∧ endStep w c = (.markerNotFound, 0, 0)) ∨
    (c.st = .field ∧ endStep w c = (.truncated, 0, 0)) ∨
    (c.st = .drain ∧ endStep w c = (.ok, bitsOf w c.buf.lat, bitsOf w c.buf.lon)) := by
  obtain ⟨st, cnt, buf⟩ := c
  cases st <;> simp [endStep]

/-- What a clock edge answers, for each way it can end (R73, R27). -/
theorem State.edge_cases (s : State) (r : Except Fault (Scanner s.build.outW)) :
    (s.build.hasScanner = false ∧ s.edge r = .refused .noScannerPorts) ∨
    (s.build.hasScanner = true ∧ ∃ f, r = .error f ∧ s.edge r = .fault f) ∨
    (s.build.hasScanner = true ∧ ∃ sc, r = .ok sc ∧ s.edge r = .next (s.withScanner sc)) := by
  cases h : s.build.hasScanner with
  | false => exact .inl ⟨rfl, by simp [State.edge, h]⟩
  | true =>
    cases r with
    | error f => exact .inr (.inl ⟨rfl, f, rfl, by simp [State.edge, h]⟩)
    | ok sc => exact .inr (.inr ⟨rfl, sc, rfl, by simp [State.edge, h]⟩)

/-- An edge of a build with a scanner, where the edge makes registers (R73). -/
theorem State.edge_ok (s : State) (sc : Scanner s.build.outW) (h : s.build.hasScanner = true) :
    s.edge (.ok sc) = .next (s.withScanner sc) := by
  simp [State.edge, h]

/-- An edge answers a next state exactly with the registers the edge makes. -/
theorem State.edge_next {s t : State} {r : Except Fault (Scanner s.build.outW)} (h : s.edge r = .next t) :
    s.build.hasScanner = true ∧ ∃ sc, r = .ok sc ∧ t = s.withScanner sc := by
  rcases s.edge_cases r with ⟨_, h'⟩ | ⟨_, f, _, h'⟩ | ⟨hs, sc, hr, h'⟩ <;> rw [h'] at h
  · exact nomatch h
  · exact nomatch h
  · exact ⟨hs, sc, hr, by injection h with h; exact h.symm⟩

/-- Everything an operation that answers a next state can have done. -/
theorem exec_next {i : Instr} {s t : State} (h : exec i s = .next t) :
    (∃ b0 b1 b2, i = .dec24 b0 b1 b2 ∧ t = s.withDin (decWordOf b0 b1 b2)) ∨
    (s.build.hasScanner = true ∧ i = .nop ∧ t = s.withScanner (s.scanner.goOn s.scanner.toCapture)) ∨
    (s.build.hasScanner = true ∧ i = .endPacket ∧ t = s.withScanner (s.scanner.finish s.scanner.toCapture)) ∨
    (s.build.hasScanner = true ∧ ∃ d c, i = .byte d ∧ byteStep s.scanner.toCapture d = .ok c ∧
      t = s.withScanner (s.scanner.goOn c)) ∨
    (s.build.hasScanner = true ∧ ∃ d c, i = .last d ∧ byteStep s.scanner.toCapture d = .ok c ∧
      t = s.withScanner (s.scanner.finish c)) := by
  cases i with
  | dec24 b0 b1 b2 =>
    refine .inl ⟨b0, b1, b2, rfl, ?_⟩
    injection h with h
    exact h.symm
  | nop =>
    obtain ⟨hs, sc, hr, ht⟩ := State.edge_next (r := .ok _) h
    injection hr with hr
    exact .inr (.inl ⟨hs, rfl, by rw [ht, ← hr]⟩)
  | endPacket =>
    obtain ⟨hs, sc, hr, ht⟩ := State.edge_next (r := .ok _) h
    injection hr with hr
    exact .inr (.inr (.inl ⟨hs, rfl, by rw [ht, ← hr]⟩))
  | byte d =>
    obtain ⟨hs, sc, hr, ht⟩ := State.edge_next h
    cases hb : byteStep s.scanner.toCapture d with
    | error f => rw [hb] at hr; exact nomatch hr
    | ok c =>
      rw [hb] at hr
      injection hr with hr
      exact .inr (.inr (.inr (.inl ⟨hs, d, c, rfl, hb, by rw [ht, ← hr]⟩)))
  | last d =>
    obtain ⟨hs, sc, hr, ht⟩ := State.edge_next h
    cases hb : byteStep s.scanner.toCapture d with
    | error f => rw [hb] at hr; exact nomatch hr
    | ok c =>
      rw [hb] at hr
      injection hr with hr
      exact .inr (.inr (.inr (.inr ⟨hs, d, c, rfl, hb, by rw [ht, ← hr]⟩)))

@[simp] theorem State.takeMove_nil {s : State} (h : s.moves = []) : s.takeMove = none := by
  simp [State.takeMove, h]

@[simp] theorem State.takeMove_cons {s : State} {m : Move} {rest : List Move} (h : s.moves = m :: rest) :
    s.takeMove = some (m, s.withMoves rest) := by
  simp [State.takeMove, h]

end Sys2Proof.Machine
end

