-- ==== Sys2Proof/Laws/PerInstr.lean ====
section
/-! SUPPORT. The family `TableRow`: the word the encoder writes for an operation is selected by the operation's own row of
the opcode table. -/

namespace Sys2Proof.Laws.TableRow

open Sys2Proof

/-- Some row of the table carries the operation's mnemonic, and that row selects the encoder's word (R49, R55). -/
def Statement (i : Instr) : Prop :=
  ∃ r ∈ opcodeTable, r.mnemonic = i.mnemonic ∧ r.selects (encode i) = true

theorem token_selected (v e : Bool) (d : Byte) :
    (tokWordOf v e d).toNat &&& 0x300 = v.toNat * 512 + e.toNat * 256 := by
  revert v e d
  decide

theorem dec24 (b0 b1 b2 : Byte) : Statement (.dec24 b0 b1 b2) :=
  ⟨_, .head _, rfl, by simp [Row.selects, encode, InputWord.width]⟩

theorem nop : Statement .nop :=
  ⟨_, .tail _ (.head _), rfl, by decide⟩

theorem byte (d : Byte) : Statement (.byte d) :=
  ⟨_, .tail _ (.tail _ (.head _)), rfl,
    by simp [Row.selects, encode, InputWord.width, InputWord.toNat, token_selected]⟩

theorem endPacket : Statement .endPacket :=
  ⟨_, .tail _ (.tail _ (.tail _ (.head _))), rfl, by decide⟩

theorem last (d : Byte) : Statement (.last d) :=
  ⟨_, .tail _ (.tail _ (.tail _ (.tail _ (.head _)))), rfl,
    by simp [Row.selects, encode, InputWord.width, InputWord.toNat, token_selected]⟩

end Sys2Proof.Laws.TableRow
end

