-- ==== Sys2Proof/Laws/Step.lean ====
section
/-! SUPPORT. Everything one step can have done. -/

namespace Sys2Proof.Machine

open Sys2Proof

/-- A step that answers a next state made the host's next move, or found none (R98). -/
theorem step_next {s t : State} (h : step s = .next t) :
    (s.moves = [] ∧ s.build.hasScanner = true ∧ t = s.withScanner s.scanner.noReport) ∨
    (s.moves = [] ∧ s.build.hasScanner = false ∧ t = s) ∨
    (∃ tok rest, s.moves = .rstEdge tok :: rest ∧ s.build.hasScanner = true ∧
      t = (s.withMoves rest).withScanner s.scanner.reset) ∨
    (∃ w rest, s.moves = .present w :: rest ∧ exec (decode w) (s.withMoves rest) = .next t) := by
  cases hm : s.moves with
  | nil =>
    simp only [step, State.takeMove_nil hm, idleStep] at h
    split at h
    · rename_i hs
      injection h with h
      exact .inl ⟨rfl, hs, h.symm⟩
    · rename_i hs
      injection h with h
      exact .inr (.inl ⟨rfl, by simpa using hs, h.symm⟩)
  | cons m rest =>
    cases m with
    | rstEdge tok =>
      simp only [step, State.takeMove_cons hm, resetEdge] at h
      obtain ⟨hs, sc, hr, ht⟩ := State.edge_next (r := .ok _) h
      injection hr with hr
      exact .inr (.inr (.inl ⟨tok, rest, rfl, hs, by rw [ht, ← hr]⟩))
    | present w =>
      simp only [step, State.takeMove_cons hm] at h
      exact .inr (.inr (.inr ⟨w, rest, rfl, h⟩))

/-- Driving `din` is no clock edge (R15). -/
theorem nextIsEdge_dec {s : State} {w : DecWord} {rest : List Move} (h : s.moves = .present (.dec w) :: rest) :
    s.nextIsEdge = false := by
  simp [State.nextIsEdge, h]

/-- A token is one clock edge (R55). -/
theorem nextIsEdge_tok {s : State} {t : TokWord} {rest : List Move} (h : s.moves = .present (.tok t) :: rest) :
    s.nextIsEdge = true := by
  simp [State.nextIsEdge, h]

/-- A reset edge is a clock edge (R101). -/
theorem nextIsEdge_rstEdge {s : State} {t : TokWord} {rest : List Move} (h : s.moves = .rstEdge t :: rest) :
    s.nextIsEdge = true := by
  simp [State.nextIsEdge, h]

/-- What a reset edge answers (R102, R27). -/
theorem resetEdge_cases (tok : TokWord) (s : State) :
    (s.build.hasScanner = false ∧ resetEdge tok s = .refused .noScannerPorts) ∨
    (s.build.hasScanner = true ∧ resetEdge tok s = .next (s.withScanner s.scanner.reset)) := by
  cases h : s.build.hasScanner with
  | false => exact .inl ⟨rfl, by simp [resetEdge, State.edge, h]⟩
  | true => exact .inr ⟨rfl, s.edge_ok _ h⟩

/-- A run of no move. -/
@[simp] theorem core_run_zero (s : State) : Sys2Proof.core.run 0 s = .next s := rfl

/-- A run after a step that answers a next state. -/
theorem core_run_of_step {n : Nat} {s t : State} (h : step s = .next t) :
    Sys2Proof.core.run (n + 1) s = Sys2Proof.core.run n t := by
  have h' : Sys2Proof.core.step s = .next t := h
  simp only [Host.Core.run, h']

/-- A run whose first step faults. -/
theorem core_run_of_fault {n : Nat} {s : State} {r : Fault} (h : step s = .fault r) :
    Sys2Proof.core.run (n + 1) s = .fault r := by
  have h' : Sys2Proof.core.step s = .fault r := h
  simp only [Host.Core.run, h']

/-- A run whose first step is refused. -/
theorem core_run_of_refused {n : Nat} {s : State} {r : Refusal} (h : step s = .refused r) :
    Sys2Proof.core.run (n + 1) s = .refused r := by
  have h' : Sys2Proof.core.step s = .refused r := h
  simp only [Host.Core.run, h']

/-- What is observed after a step that answers a next state (R100). -/
theorem observe_of_step {n : Nat} {s t : State} (h : step s = .next t) :
    observe (n + 1) s = (if s.nextIsEdge then t.reportNow.toList else []) ++ observe n t := by
  simp only [observe, h]

end Sys2Proof.Machine
end

