-- ==== Sys2Proof/Tests/Slice0.lean ====
section
/-! SUPPORT. The model's own tests. Every expected value is from the spec's test vectors (95_test_vectors.md) or its
worked examples, and the witnesses show that the hypotheses of the obligations can be met. -/

namespace Sys2Proof.Tests

open Sys2Proof Sys2Proof.Machine

/-! ## Helpers -/

/-- A default build in a given phase, holding an earlier error report (so that a cleared or held register shows). -/
def inPhase (st : Phase) (cnt : Fin 7) (buf : Buf) (moves : List Move) : State :=
  { build := Build.default, din := 0, moves := moves,
    scanner := { st := st, cnt := cnt, buf := buf, doneQ := true, statusQ := .truncated, latQ := 0, lonQ := 0 } }

/-- The six bytes `00 00 64 00 00 32` of Scenario A. -/
def scenarioA : Buf := #v[0x00, 0x00, 0x64, 0x00, 0x00, 0x32]

/-- What a test looks at: the hidden registers, and the four output ports as the host reads them. -/
structure View where
  st : Phase
  cnt : Nat
  buf : List Byte
  done : Bool
  status : BitVec 2
  lat : Int
  lon : Int
  deriving DecidableEq, Repr

def view : Host.Outcome State Fault Refusal → Option View
  | .next t => some ⟨t.scanner.st, t.scanner.cnt.val, t.scanner.buf.toList, t.scanner.doneQ, t.scanner.statusQ.code,
      t.scanner.latQ.toInt, t.scanner.lonQ.toInt⟩
  | .fault _ => none
  | .refused _ => none

/-- `dout` of a next state, as a number. -/
def viewDout : Host.Outcome State Fault Refusal → Option Nat
  | .next t => some t.dout.toNat
  | .fault _ => none
  | .refused _ => none

/-! ## WellFormed: a term each check refuses -/

theorem test_build_of_23_bits_refused : Build.wellFormed { outW := 23, hasScanner := true } = false := by decide
theorem test_token_without_scanner_refused : Instr.wellFormed Build.decoderOnly .nop = false := by decide
theorem test_token_word_without_scanner_refused : InputWord.wellFormed Build.decoderOnly (.tok 0x225) = false := by decide
theorem test_reset_edge_without_scanner_refused : Move.wellFormed Build.decoderOnly (.rstEdge 0) = false := by decide
theorem test_field_of_two_bytes_refused : fieldWellFormed [0xFF, 0xFF] = false := by decide
theorem test_wellformed_accepts :
    Build.wellFormed { outW := 24, hasScanner := false } = true ∧ Instr.wellFormed Build.decoderOnly (.dec24 1 2 3) = true ∧
    Move.wellFormed Build.default (.rstEdge 0) = true ∧ fieldWellFormed [0xFF, 0xFF, 0x9C] = true := by decide

/-! ## Decoding: words written out from the spec's encodings (R44, R47, R49, R56; 95_test_vectors.md 2.2) -/

theorem test_decode_dec24 : decode (.dec 0b00010010_00110100_01010110) = .dec24 0x12 0x34 0x56 := by decide
theorem test_decode_nop : decode (.tok 0b00_00000000) = .nop := by decide
theorem test_decode_nop_ignores_byte : decode (.tok 0b00_10100101) = .nop := by decide
theorem test_decode_byte : decode (.tok 0b10_00100101) = .byte 0x25 := by decide
theorem test_decode_end : decode (.tok 0b01_00000000) = .endPacket := by decide
theorem test_decode_end_ignores_byte : decode (.tok 0b01_11111111) = .endPacket := by decide
theorem test_decode_last : decode (.tok 0b11_00110010) = .last 0x32 := by decide
theorem test_table_word_dec24 : decodeTableWord 24 0xFFFF9C = some (.dec24 0xFF 0xFF 0x9C) := by decide
theorem test_table_word_tokens :
    decodeTableWord 10 0x225 = some (.byte 0x25) ∧ decodeTableWord 16 0x332 = some (.last 0x32) ∧
    decodeTableWord 16 0x100 = some .endPacket ∧ decodeTableWord 16 0x000 = some .nop := by decide
theorem test_decode_refuses_by_name :
    decodeWord 8 0x25 = .error (.noSuchFormat 8) ∧ decodeWord 16 0x400 = .error (.tooWide 16 0x400) ∧
    decodeField [0xFF, 0x9C] = .error (.fieldLength 2) ∧ decodeField [0, 0, 0, 0] = .error (.fieldLength 4) := by
  refine ⟨?_, ?_, ?_, ?_⟩ <;> rfl
theorem test_encode_words :
    encode (.dec24 0xFF 0xFF 0x9C) = .dec 0xFFFF9C ∧ encode .nop = .tok 0x000 ∧ encode (.byte 0x25) = .tok 0x225 ∧
    encode .endPacket = .tok 0x100 ∧ encode (.last 0x32) = .tok 0x332 := by decide

/-! ## One step each (95_test_vectors.md 2.1, 2.2) -/

/-- Scenario B: `DEC24 FF FF 9C` gives `0xFFFFFF9C`, and leaves the scanner. -/
theorem test_dec24_negative :
    viewDout (step ((inPhase .field 2 scenarioA []).withFetchWord 24 0xFFFF9C)) = some 0xFFFFFF9C ∧
    view (step ((inPhase .field 2 scenarioA []).withFetchWord 24 0xFFFF9C)) =
      some ⟨.field, 2, [0x00, 0x00, 0x64, 0x00, 0x00, 0x32], true, 0b10, 0, 0⟩ := by decide

/-- Program 5, in the decoder-only build, and the width variants of section 2.1. -/
theorem test_dec24_widths :
    viewDout (step ((State.resetOf Build.decoderOnly).withFetchWord 24 0x800000)) = some 0xFF800000 ∧
    viewDout (step ((State.resetOf { outW := 24, hasScanner := false }).withFetchWord 24 0xFFFF9C)) = some 0xFFFF9C ∧
    viewDout (step ((State.resetOf { outW := 64, hasScanner := false }).withFetchWord 24 0xFFFF9C)) =
      some 0xFFFFFFFFFFFFFF9C := by decide

/-- `FIELD`, 2, `NOP`: only `done` falls; `status` holds. -/
theorem test_nop_holds :
    view (step ((inPhase .field 2 scenarioA []).withFetchWord 10 0x000)) =
      some ⟨.field, 2, [0x00, 0x00, 0x64, 0x00, 0x00, 0x32], false, 0b10, 0, 0⟩ := by decide

/-- `FIELD`, 0, `BYTE 25`: the marker is captured as data. -/
theorem test_byte_marker_is_data :
    view (step ((inPhase .field 0 scenarioA []).withFetchWord 10 0x225)) =
      some ⟨.field, 1, [0x25, 0x00, 0x64, 0x00, 0x00, 0x32], false, 0b10, 0, 0⟩ := by decide

/-- `FIELD`, 5, `BYTE 01`: the sixth field byte moves to `DRAIN`. -/
theorem test_byte_sixth :
    view (step ((inPhase .field 5 scenarioA []).withFetchWord 10 0x201)) =
      some ⟨.drain, 6, [0x00, 0x00, 0x64, 0x00, 0x00, 0x01], false, 0b10, 0, 0⟩ := by decide

/-- `FIELD`, 5, `END`: five bytes are too few. -/
theorem test_end_truncated :
    view (step ((inPhase .field 5 scenarioA []).withFetchWord 10 0x100)) =
      some ⟨.search, 0, [0x00, 0x00, 0x64, 0x00, 0x00, 0x32], true, 0b10, 0, 0⟩ := by decide

/-- `DRAIN`, 6 with `buf = 00 00 64 00 00 32`, `END`: `OK(100, 50)`. -/
theorem test_end_ok :
    view (step ((inPhase .drain 6 scenarioA []).withFetchWord 10 0x100)) =
      some ⟨.search, 0, [0x00, 0x00, 0x64, 0x00, 0x00, 0x32], true, 0b00, 100, 50⟩ := by decide +kernel

/-- `FIELD`, 5 with `buf[0..4] = 00 00 64 00 00`, `LAST 32`: the report includes the byte. -/
theorem test_last_reports_its_byte :
    view (step ((inPhase .field 5 #v[0x00, 0x00, 0x64, 0x00, 0x00, 0xEE] []).withFetchWord 10 0x332)) =
      some ⟨.search, 0, [0x00, 0x00, 0x64, 0x00, 0x00, 0x32], true, 0b00, 100, 50⟩ := by decide +kernel

/-- `SEARCH`, 0, `LAST 25`: the marker is the final byte, so the packet is truncated. -/
theorem test_last_marker_alone :
    view (step (State.reset.withFetchWord 10 0x325)) = some ⟨.search, 0, [0, 0, 0, 0, 0, 0], true, 0b10, 0, 0⟩ := by decide

/-- `FIELD`, 3, `BYTE 25` with `rst = 1`: the token is discarded, the outputs are cleared, `buf` stays. -/
theorem test_reset_edge :
    view (step (inPhase .field 3 scenarioA [.rstEdge 0x225])) =
      some ⟨.search, 0, [0x00, 0x00, 0x64, 0x00, 0x00, 0x32], false, 0b00, 0, 0⟩ := by decide

/-- R27, R43: a token finds no ports in a decoder-only build. -/
theorem test_token_refused_without_scanner :
    (match step ((State.resetOf Build.decoderOnly).withFetchWord 10 0x225) with
      | .refused .noScannerPorts => true
      | _ => false) = true := by decide

/-! ## The reference function and the host (95_test_vectors.md 2.3) -/

theorem test_scan_drops_both_ends :
    scan [0xAA, 0xBB, 0x25, 0x80, 0x00, 0x00, 0x7F, 0xFF, 0xFF, 0xCC] = .ok (-8388608) 8388607 := by decide
theorem test_scan_first_marker :
    scan [0x11, 0x25, 0, 0, 1, 0, 0, 2, 0x25, 0, 0, 3, 0, 0, 4] = .ok 1 2 := by decide
theorem test_scan_errors :
    scan [] = .markerNotFound ∧ scan [0x24, 0x26, 0xA5, 0x05, 0x52] = .markerNotFound ∧
    scan [0x25, 0, 0, 0, 0, 0] = .truncated := by decide

/-- `"25 0G"` and `"250"` are malformed; `"2a"` and `"2A"` are the same byte. -/
theorem test_host_hex :
    hostHex ['2', '5', ' ', '0', 'G'] = .error .malformedHexInput ∧ hostHex ['2', '5', '0'] = .error .malformedHexInput ∧
    hostHex ['2', 'a'] = .ok [0x2A] ∧ hostHex ['2', 'A'] = .ok [0x2A] := by
  refine ⟨?_, ?_, ?_, ?_⟩ <;> rfl

/-- Scenario A's doubles, 0.0033333333333333335 and 0.0016666666666666668, and Scenario B's sign. -/
theorem test_degrees :
    toDegrees 100 = 0x3F6B4E81B4E81B4F ∧ toDegrees 50 = 0x3F5B4E81B4E81B4F ∧ toDegrees (-100) = 0xBF6B4E81B4E81B4F := by
  decide

/-! ## Witnesses: states and operands that meet the hypotheses of the obligations, at the boundaries of their clauses -/

/-- DecodeOfEncode; DecoderAndScannerAreIndependent's operands. -/
theorem witness_wellFormed_operations :
    Instr.wellFormed Build.default (.last 0xFF) = true ∧ Instr.wellFormed Build.decoderOnly (.dec24 0 0x80 0xFF) = true := by
  decide

/-- EncodeOfDecode: both values of `tok[9]`. -/
theorem witness_tokens_with_and_without_byte :
    BitVec.getLsbD (0x2FF : TokWord) 9 = true ∧ BitVec.getLsbD (0x1FF : TokWord) 9 = false := by decide

/-- OtherFieldLengthsAreRefused: the lengths beside 3. -/
theorem witness_other_lengths : ([0, 0] : List Byte).length ≠ 3 ∧ ([0, 0, 0, 0] : List Byte).length ≠ 3 := by decide

/-- OutputIsSignExtension: the narrowest build, and a bit above the field. -/
theorem witness_output_widths :
    (State.resetOf { outW := 24, hasScanner := false }).build.wellFormed = true ∧
    (State.resetOf { outW := 25, hasScanner := true }).build.wellFormed = true ∧ 24 ≤ 24 ∧ 24 < 25 := by decide

/-- RangeIsExact, FieldRoundTrip, DegreesAreRoundedToNearest: both ends of the range, and a value that is not 0. -/
theorem witness_range_ends :
    ((-8388608 : Int) ≤ -8388608 ∧ (-8388608 : Int) ≤ 8388607 ∧ (-8388608 : Int) ≠ 0) ∧
    ((-8388608 : Int) ≤ 8388607 ∧ (8388607 : Int) ≤ 8388607) := by decide

/-- RangeIsExact, third clause: equal values of two fields. -/
theorem witness_equal_fields : dec24 0x80 0 0 = dec24 0x80 0 0 ∧ 24 ≤ 24 := by decide

/-- DecoderAndScannerAreIndependent, DoneMarksReportingEdges, EveryOperationHasItsFrame: a token that answers a next state,
and `DEC24` that does. -/
theorem witness_exec_answers :
    Instr.isToken (.byte 0x25) = true ∧ exec (.byte 0x25) State.reset =
      .next { State.reset with scanner := { State.reset.scanner with st := .field } } ∧
    Instr.isToken (.dec24 0 0 1) = false ∧ exec (.dec24 0 0 1) State.reset = .next { State.reset with din := 1 } :=
  ⟨rfl, rfl, rfl, rfl⟩

/-- EveryOperationHasItsFrame, last clause: a byte accepted in `FIELD`, at the last slot. -/
theorem witness_frame_field :
    Instr.payload (.last 7) = [7] ∧ (inPhase .field 5 scenarioA []).scanner.st = .field ∧
    (view (exec (.last 7) (inPhase .field 5 scenarioA []))).isSome = true := by decide

/-- NopOnlyClearsDone, EndReportsThePacket (all phases), OutputPortsShowTheRegisters: a build with a scanner. -/
theorem witness_scanner_in_each_phase :
    (inPhase .search 0 scenarioA []).build.hasScanner = true ∧ (inPhase .search 0 scenarioA []).scanner.st = .search ∧
    (inPhase .field 0 scenarioA []).scanner.st = .field ∧ (inPhase .drain 6 scenarioA []).scanner.st = .drain := by decide

/-- ByteAddsOneByte and LastAddsItsByteAndReports, clause by clause: the marker, a byte beside it, the slots 0, 4 and 5. -/
theorem witness_byte_clauses :
    (0x25 : Byte) = 0x25 ∧ (0x24 : Byte) ≠ 0x25 ∧
    (inPhase .field 0 scenarioA []).scanner.cnt.val < 5 ∧ (inPhase .field 4 scenarioA []).scanner.cnt.val < 5 ∧
    (inPhase .field 4 scenarioA []).scanner.cnt.val < 6 ∧ (inPhase .field 5 scenarioA []).scanner.cnt.val < 6 ∧
    (inPhase .field 5 scenarioA []).scanner.cnt.val = 5 := by decide

/-- FaultOnlyWithoutACaptureSlot: the one state that stops, which no run reaches. -/
theorem witness_fault :
    (match exec (.byte 0) (inPhase .field 6 scenarioA []) with
      | .fault .captureIndexOutOfRange => true
      | _ => false) = true := by decide

/-- DecoderOnlyBuild, with a reset edge to come. -/
theorem witness_decoder_only :
    ({ State.resetOf Build.decoderOnly with moves := [.rstEdge 0] } : State).build.hasScanner = false ∧
    Instr.isToken .nop = true := by decide

/-- EdgeRule, StepRunsThePresentedWord, ResetEdgeDiscardsTheToken: the next move of each kind. -/
theorem witness_next_moves :
    (inPhase .field 5 scenarioA [.present (.tok 0x3FF)]).moves = .present (.tok 0x3FF) :: [] ∧
    (inPhase .drain 6 scenarioA [.rstEdge 0x300, .rstEdge 0]).moves = .rstEdge 0x300 :: [.rstEdge 0] ∧
    (inPhase .drain 6 scenarioA []).build.hasScanner = true := by decide

/-- OutputsHoldBetweenReports: a `BYTE` step, which is neither a reset nor the end of a packet, and a state without a report. -/
theorem witness_outputs_hold :
    (view (step (inPhase .drain 6 scenarioA [.present (.tok 0x2FF)]))).isSome = true ∧
    (∀ tok rest, (inPhase .drain 6 scenarioA [.present (.tok 0x2FF)]).moves ≠ .rstEdge tok :: rest) ∧
    (∀ w rest, (inPhase .drain 6 scenarioA [.present (.tok 0x2FF)]).moves = .present w :: rest →
      (decode w).endsPacket = false) ∧
    State.reset.scanner.doneQ = false := by
  refine ⟨by decide, ?_, fun w rest h => ?_, rfl⟩
  · intro tok rest h
    injection h with h _
    exact nomatch h
  · injection h with h _
    injection h with h
    subst h
    decide

/-- AHeldTokenCountsTwice: the last two slots. -/
theorem witness_held_token :
    (inPhase .field 4 scenarioA [.present (encode (.byte 9)), .present (encode (.byte 9))]).scanner.cnt.val < 5 ∧
    (inPhase .field 4 scenarioA [.present (encode (.byte 9)), .present (encode (.byte 9))]).scanner.st = .field ∧
    (inPhase .field 4 scenarioA [.present (encode (.byte 9)), .present (encode (.byte 9))]).moves =
      .present (encode (.byte 9)) :: .present (encode (.byte 9)) :: [] := by decide

/-- EveryStepKeepsTheInvariant, NoMoveStopsASafeMachine, ResetAbandonsAPacket, InvariantAtReset: the invariant in the middle of
a packet, with a move that fits. -/
theorem witness_safe :
    (inPhase .field 5 scenarioA [.present (.tok 0x3FF)]).Safe ∧
    (view (step (inPhase .field 5 scenarioA [.present (.tok 0x3FF)]))).isSome = true ∧
    Build.wellFormed Build.default = true := by decide

/-- StateAfterAPacketPrefix and ScannerAgreesWithScan: a body with `NOP` and `DEC24` among its bytes, and both endings. -/
theorem witness_packet :
    State.reset.build.wellFormed = true ∧ State.reset.build.hasScanner = true ∧ State.reset.scanner.st = .search ∧
    State.reset.scanner.cnt.val = 0 ∧
    (∀ w ∈ [InputWord.tok 0x225, .tok 0x0AA, .dec 0x800000, .tok 0x201], (decode w).endsPacket = false) ∧
    (decode (.tok 0x100)).endsPacket = true ∧ (decode (.tok 0x3FF)).endsPacket = true ∧
    ({ State.reset with moves := [InputWord.tok 0x225, .tok 0x100].map Move.present ++ [.rstEdge 0] } : State).moves =
      ([InputWord.tok 0x225] ++ [InputWord.tok 0x100]).map Move.present ++ [.rstEdge 0] := by decide

/-- StateAfterAPacketPrefix, second clause: five and six bytes after the first marker, and none before it. -/
theorem witness_packet_prefix :
    payloadOf ([0x211, 0x225, 0x225, 0x200, 0x200, 0x200, 0x200].map InputWord.tok) =
      [(0x11 : Byte)] ++ 0x25 :: [0x25, 0, 0, 0, 0] ∧ (0x25 : Byte) ∉ [(0x11 : Byte)] ∧
    payloadOf ([0x225, 0x201, 0x202, 0x203, 0x204, 0x205, 0x206].map InputWord.tok) =
      [] ++ (0x25 : Byte) :: [1, 2, 3, 4, 5, 6] ∧ (0x25 : Byte) ∉ ([] : List Byte) ∧
    payloadOf [InputWord.tok 0x224] = [0x24] ∧ (0x25 : Byte) ∉ [(0x24 : Byte)] := by decide

/-- ScanIsTheReferenceFunction, last clause: a marker inside the fields, and bytes before the first. -/
theorem witness_scan_ok : (0x25 : Byte) ∉ [(0x11 : Byte), 0x24] ∧
    scan ([0x11, 0x24] ++ 0x25 :: 0x25 :: 0 :: 0 :: 0xFF :: 0xFF :: 0x9C :: [0x25]) = .ok 2424832 (-100) := by decide

/-- ResetAbandonsAPacket: a partial packet, a reset edge and a packet. -/
theorem witness_reset_mid_packet :
    ({ inPhase .field 1 scenarioA [] with
      moves := [InputWord.tok 0x201].map Move.present ++ .rstEdge 0x225 :: pktMoves [0x25] } : State).Inv ∧
    (decode (.tok 0x201)).endsPacket = false := by decide

/-- StaleBufferIsUnobservable: a run from `SEARCH` that answers a next state. -/
theorem witness_stale_buffer :
    State.reset.scanner.st = .search ∧ Sys2Proof.core.run 1 State.reset = .next State.reset := ⟨rfl, rfl⟩

/-- NothingPresentedIsNop: no move to come, in both kinds of build. -/
theorem witness_nothing_presented :
    State.reset.moves = [] ∧ State.reset.build.hasScanner = true ∧ (State.resetOf Build.decoderOnly).moves = [] ∧
    (State.resetOf Build.decoderOnly).build.hasScanner = false := by decide

/-- HexTextGivesItsBytes: the digits' lists. -/
theorem witness_digits : ∃ digits : List Char,
    digits = "0123456789abcdef".toList ∨ digits = "0123456789ABCDEF".toList := ⟨_, .inl rfl⟩

/-- OneReportForEachPacket: a boundary with a stale `buf` and an earlier error report, two packets (one of them empty) and a
move after them. -/
theorem witness_stream :
    (inPhase .search 0 scenarioA [.present (.tok 0x325), .present (.tok 0x100), .rstEdge 0]).build.wellFormed = true ∧
    (inPhase .search 0 scenarioA [.present (.tok 0x325), .present (.tok 0x100), .rstEdge 0]).build.hasScanner = true ∧
    (inPhase .search 0 scenarioA [.present (.tok 0x325), .present (.tok 0x100), .rstEdge 0]).scanner.st = .search ∧
    (inPhase .search 0 scenarioA [.present (.tok 0x325), .present (.tok 0x100), .rstEdge 0]).scanner.cnt.val = 0 ∧
    (inPhase .search 0 scenarioA [.present (.tok 0x325), .present (.tok 0x100), .rstEdge 0]).moves =
      [[0x25], []].flatMap pktMoves ++ [.rstEdge 0] := by decide

/-- CoordinatesThroughTheBlock: a text that converts and one that does not, and a boundary with a stale `buf` whose moves are
the text's packet. -/
theorem witness_coordinates :
    hostHex ['2', '5', ' '] = .ok [0x25] ∧ hostHex ['2'] = .error .malformedHexInput ∧
    (inPhase .search 0 scenarioA [.present (.tok 0x325)]).build.wellFormed = true ∧
    (inPhase .search 0 scenarioA [.present (.tok 0x325)]).build.hasScanner = true ∧
    (inPhase .search 0 scenarioA [.present (.tok 0x325)]).scanner.st = .search ∧
    (inPhase .search 0 scenarioA [.present (.tok 0x325)]).scanner.cnt.val = 0 ∧
    (inPhase .search 0 scenarioA [.present (.tok 0x325)]).moves = pktMoves [0x25] ++ [] :=
  ⟨rfl, rfl, rfl, rfl, rfl, rfl, rfl⟩

end Sys2Proof.Tests
end

section
/-! PROOFS. The scope family: what `buf` holds beyond the bytes of the current packet is never observable (R9, R20,
R81), and a step with nothing presented (R10, R74, R95).

The idea for `buf`: only its captured cells matter, none in `SEARCH`, the first `cnt` in `FIELD`, all six in `DRAIN`.
Two machines that agree there, and on everything but `buf`, make the same step and agree there again. -/

namespace Sys2Proof.Machine

open Sys2Proof

/-! ## The other buffer -/

/-- How many cells of `buf`, from `buf[0]` on, hold bytes of the current packet (R18, R19, R20). -/
def Capture.captured (c : Capture) : Nat :=
  match c.st with
  | .search => 0
  | .field => c.cnt.val
  | .drain => 6

/-- `buf` holds the same captured bytes as the registers' own buffer. -/
def Capture.Agrees (c : Capture) (buf : Buf) : Prop :=
  ∀ (i : Nat) (_ : i < 6), i < c.captured → buf[i] = c.buf[i]

/-- The capture registers with another `buf`. -/
def Capture.withBuf (c : Capture) (buf : Buf) : Capture := { c with buf := buf }

/-- The scanner with another `buf`. -/
def Scanner.withBuf {w : Nat} (sc : Scanner w) (buf : Buf) : Scanner w := { sc with buf := buf }

/-- The machine with another `buf`. -/
def State.withBuf (s : State) (buf : Buf) : State := { s with scanner := s.scanner.withBuf buf }

/-- In `SEARCH` no cell is captured, so every buffer agrees. -/
theorem Capture.agrees_of_search {c : Capture} (buf : Buf) (h : c.st = .search) : c.Agrees buf := by
  intro i _ hi
  simp [Capture.captured, h] at hi

/-- In `DRAIN` every cell is captured, so only the same buffer agrees. -/
theorem Capture.agrees_drain {c : Capture} {buf : Buf} (h : c.st = .drain) : c.Agrees buf ↔ buf = c.buf := by
  constructor
  · intro ha
    ext i hi
    rw [ha i hi (by simpa [Capture.captured, h] using hi)]
  · rintro rfl _ _ _
    rfl

/-- One more captured byte, written to both buffers at `buf[cnt]`, keeps them in agreement (R71). -/
theorem Capture.Agrees.set {c c' : Capture} {buf : Buf} {b : Byte} (ha : c.Agrees buf) (hst : c.st = .field)
    (hlt : c.cnt.val < 6) (hbuf : c'.buf = c.buf.set c.cnt.val b hlt) (hcap : c'.captured = c.cnt.val + 1) :
    c'.Agrees (buf.set c.cnt.val b hlt) := by
  intro i hi hic
  simp only [hbuf]
  by_cases hic' : c.cnt.val = i
  · simp [hic']
  · rw [Vector.getElem_set_ne hlt hi hic', Vector.getElem_set_ne hlt hi hic']
    exact ha i hi (by simp only [Capture.captured, hst]; omega)

/-! ## The shared operations do not see the stale cells -/

/-- Two results of `byte_step` that are the same stop, or differ in `buf` alone and agree on the captured cells. -/
inductive CapturesAgree : Except Fault Capture → Except Fault Capture → Prop
  | error (f : Fault) : CapturesAgree (.error f) (.error f)
  | ok {c : Capture} {buf : Buf} (h : c.Agrees buf) : CapturesAgree (.ok c) (.ok (c.withBuf buf))

/-- `byte_step` keeps the agreement (R71). -/
theorem byteStep_agree {c : Capture} {buf : Buf} (b : Byte) (ha : c.Agrees buf) :
    CapturesAgree (byteStep c b) (byteStep (c.withBuf buf) b) := by
  obtain ⟨st, cnt, buf₀⟩ := c
  change CapturesAgree (byteStep ⟨st, cnt, buf₀⟩ b) (byteStep ⟨st, cnt, buf⟩ b)
  cases st with
  | search =>
    by_cases hb : b = Config.marker
    · simp only [byteStep, if_pos hb]
      exact .ok (buf := buf) fun i _ hi => absurd hi (Nat.not_lt_zero i)
    · simp only [byteStep, if_neg hb]
      exact .ok (Capture.agrees_of_search buf rfl)
  | drain => exact .ok (c := ⟨.drain, 6, buf₀⟩) ha
  | field =>
    by_cases hlt : cnt.val < 6
    · by_cases h5 : cnt.val = 5
      · simp only [byteStep, dif_pos hlt, if_pos h5]
        have hcap : (⟨.drain, 6, buf₀.set cnt.val b hlt⟩ : Capture).captured = cnt.val + 1 :=
          congrArg (· + 1) h5.symm
        exact .ok (ha.set rfl hlt rfl hcap)
      · simp only [byteStep, dif_pos hlt, if_neg h5]
        exact .ok (c := ⟨.field, ⟨cnt.val + 1, by omega⟩, buf₀.set cnt.val b hlt⟩) (ha.set rfl hlt rfl rfl)
    · simp only [byteStep, dif_neg hlt]
      exact .error _

/-- A report is made of captured cells alone (R72). -/
theorem endStep_withBuf (w : Nat) {c : Capture} {buf : Buf} (ha : c.Agrees buf) :
    endStep w (c.withBuf buf) = endStep w c := by
  cases hst : c.st with
  | search => simp [endStep, Capture.withBuf, hst]
  | field => simp [endStep, Capture.withBuf, hst]
  | drain => rw [(Capture.agrees_drain hst).mp ha]; rfl

/-- An edge inside a packet writes the captured registers and none that depends on the old `buf` (R73). -/
theorem Scanner.goOn_withBuf {w : Nat} (sc : Scanner w) (buf : Buf) (c : Capture) (buf' : Buf) :
    (sc.withBuf buf).goOn (c.withBuf buf') = (sc.goOn c).withBuf buf' := rfl

/-- An edge that ends the packet also writes the report, which is the same for both buffers (R73). -/
theorem Scanner.finish_withBuf {w : Nat} (sc : Scanner w) (buf : Buf) {c : Capture} {buf' : Buf} (ha : c.Agrees buf') :
    (sc.withBuf buf).finish (c.withBuf buf') = (sc.finish c).withBuf buf' := by
  unfold Scanner.finish
  rw [endStep_withBuf w ha]
  rfl

/-! ## One step, and every run -/

/-- Two outcomes that are the same stop, or next states that differ in `buf` alone and agree on the captured cells. -/
inductive OutcomesAgree : Host.Outcome State Fault Refusal → Host.Outcome State Fault Refusal → Prop
  | next {t : State} {buf : Buf} (h : t.scanner.Agrees buf) : OutcomesAgree (.next t) (.next (t.withBuf buf))
  | fault (f : Fault) : OutcomesAgree (.fault f) (.fault f)
  | refused (r : Refusal) : OutcomesAgree (.refused r) (.refused r)

/-- An edge that makes registers which differ in `buf` alone. -/
theorem State.edge_ok_agree (s : State) (buf : Buf) {sc : Scanner s.build.outW} {buf' : Buf}
    (ha : sc.Agrees buf') :
    OutcomesAgree (s.edge (.ok sc)) ((s.withBuf buf).edge (.ok (sc.withBuf buf'))) := by
  cases hs : s.build.hasScanner with
  | false =>
    simp only [State.edge, State.withBuf, hs]
    exact .refused _
  | true =>
    rw [State.edge_ok s sc hs, State.edge_ok (s.withBuf buf) (sc.withBuf buf') hs]
    exact .next (t := s.withScanner sc) ha

/-- An edge that accepts a byte, whatever its end makes of the captured bytes (`f` in one run, `g` in the other). -/
theorem State.edge_map_agree {s : State} {buf : Buf} {r r' : Except Fault Capture} (hr : CapturesAgree r r')
    {f g : Capture → Scanner s.build.outW}
    (hfg : ∀ c buf', c.Agrees buf' → g (c.withBuf buf') = (f c).withBuf buf' ∧ (f c).Agrees buf') :
    OutcomesAgree (s.edge (r.map f)) ((s.withBuf buf).edge (r'.map g)) := by
  cases hr with
  | error e =>
    cases hs : s.build.hasScanner with
    | false => simp only [State.edge, State.withBuf, hs]; exact .refused _
    | true => simp only [State.edge, State.withBuf, hs]; exact .fault e
  | ok hc =>
    obtain ⟨hg, hf⟩ := hfg _ _ hc
    simp only [Except.map, hg]
    exact s.edge_ok_agree buf hf

/-- Every operation keeps the agreement (R60, R74 to R77). -/
theorem exec_agree (i : Instr) {s : State} {buf : Buf} (ha : s.scanner.Agrees buf) :
    OutcomesAgree (exec i s) (exec i (s.withBuf buf)) := by
  have hfinish (c : Capture) (buf' : Buf) : (s.scanner.finish c).Agrees buf' := Capture.agrees_of_search buf' rfl
  cases i with
  | dec24 b0 b1 b2 => exact .next (t := s.withDin (decWordOf b0 b1 b2)) ha
  | nop => exact s.edge_ok_agree buf (sc := s.scanner.goOn s.scanner.toCapture) ha
  | byte d =>
    exact State.edge_map_agree (byteStep_agree d ha) fun c buf' hc => ⟨s.scanner.goOn_withBuf buf c buf', hc⟩
  | endPacket =>
    have h := s.edge_ok_agree buf (hfinish s.scanner.toCapture buf)
    rwa [← s.scanner.finish_withBuf buf ha] at h
  | last d =>
    exact State.edge_map_agree (byteStep_agree d ha) fun c buf' hc =>
      ⟨s.scanner.finish_withBuf buf hc, hfinish c buf'⟩

/-- One step of two machines that differ in stale cells of `buf` alone. -/
theorem step_agree {s : State} {buf : Buf} (ha : s.scanner.Agrees buf) :
    OutcomesAgree (step s) (step (s.withBuf buf)) := by
  cases hm : s.moves with
  | nil =>
    have hm' : (s.withBuf buf).moves = [] := hm
    simp only [step, State.takeMove_nil hm, State.takeMove_nil hm', idleStep]
    cases hs : s.build.hasScanner with
    | false => simp only [State.withBuf, hs]; exact .next ha
    | true => simp only [State.withBuf, hs]; exact .next (t := s.withScanner s.scanner.noReport) ha
  | cons m rest =>
    have hm' : (s.withBuf buf).moves = m :: rest := hm
    simp only [step, State.takeMove_cons hm, State.takeMove_cons hm']
    cases m with
    | rstEdge tok =>
      exact (s.withMoves rest).edge_ok_agree buf (sc := s.scanner.reset) (Capture.agrees_of_search buf rfl)
    | present w => exact exec_agree (decode w) (s := s.withMoves rest) ha

/-- Every run of two machines that differ in stale cells of `buf` alone. -/
theorem core_run_agree (n : Nat) {s : State} {buf : Buf} (ha : s.scanner.Agrees buf) :
    OutcomesAgree (Sys2Proof.core.run n s) (Sys2Proof.core.run n (s.withBuf buf)) := by
  induction n generalizing s buf with
  | zero => exact .next ha
  | succ n ih =>
    generalize hs : step s = o, hs' : step (s.withBuf buf) = o'
    have hstep : OutcomesAgree o o' := hs ▸ hs' ▸ step_agree ha
    cases hstep with
    | next hat => rw [core_run_of_step hs, core_run_of_step hs']; exact ih hat
    | fault f => rw [core_run_of_fault hs, core_run_of_fault hs']; exact .fault f
    | refused r => rw [core_run_of_refused hs, core_run_of_refused hs']; exact .refused r

/-- The output ports are driven by the output registers, not by `buf` (R21). -/
@[simp] theorem State.reportNow_withBuf (s : State) (buf : Buf) : (s.withBuf buf).reportNow = s.reportNow := rfl

/-- Whether the next move is an edge is the host's choice. -/
@[simp] theorem State.nextIsEdge_withBuf (s : State) (buf : Buf) : (s.withBuf buf).nextIsEdge = s.nextIsEdge := rfl

/-- The reports of two machines that differ in stale cells of `buf` alone. -/
theorem observe_withBuf (n : Nat) {s : State} {buf : Buf} (ha : s.scanner.Agrees buf) :
    observe n (s.withBuf buf) = observe n s := by
  induction n generalizing s buf with
  | zero => rfl
  | succ n ih =>
    generalize hs : step s = o, hs' : step (s.withBuf buf) = o'
    have hstep : OutcomesAgree o o' := hs ▸ hs' ▸ step_agree ha
    cases hstep with
    | next hat =>
      rw [observe_of_step hs, observe_of_step hs', ih hat, State.reportNow_withBuf, State.nextIsEdge_withBuf]
    | fault f => simp only [observe, hs, hs']
    | refused r => simp only [observe, hs, hs']

/-- Settles O37: in `SEARCH` every buffer agrees on the captured cells, as none is, and agreement is kept. -/
theorem staleBufferIsUnobservable : Obligations.StaleBufferIsUnobservable := by
  intro s buf n hst
  have ha : s.scanner.Agrees buf := Capture.agrees_of_search buf hst
  refine ⟨observe_withBuf n ha, fun t ht => ?_⟩
  have hrun : OutcomesAgree (.next t) (Sys2Proof.core.run n (s.withBuf buf)) := ht ▸ core_run_agree n ha
  generalize ho : Sys2Proof.core.run n (s.withBuf buf) = o at hrun
  cases hrun with
  | next _ => exact ⟨_, ho⟩

/-! ## Nothing presented -/

/-- With no move to come, a step is the idle step. -/
theorem step_of_no_moves {s : State} (h : s.moves = []) : step s = idleStep s := by
  simp only [step, State.takeMove_nil h]

/-- Settles O38, by the two kinds of build: the idle step clears `done_q`, or does nothing. -/
theorem nothingPresentedIsNop : Obligations.NothingPresentedIsNop := by
  intro s hm
  rw [step_of_no_moves hm]
  constructor
  · intro hs
    rw [idleStep, if_pos hs]
    rfl
  · intro hs
    simp [idleStep, hs]

end Sys2Proof.Machine
end

section
/-! PROOFS. The state family: what every step keeps (R25, R62, R80), what every operation leaves unchanged and where the
model stops (R16, R20, R71), the scanner's state inside a packet (R18, R19, R20, R81), reset (R26), the output
ports (R21) and the build without a scanner (R27, R43). -/

namespace Sys2Proof.Machine

open Sys2Proof

/-! ## What a byte, an edge and a step do -/

/-- In `SEARCH` the marker starts the fields. -/
theorem byteStep_marker {c : Capture} (hst : c.st = .search) :
    byteStep c Config.marker = .ok { st := .field, cnt := 0, buf := c.buf } := by
  simp only [byteStep, hst, if_true]

/-- In `SEARCH` any other byte is ignored. -/
theorem byteStep_other {c : Capture} {b : Byte} (hst : c.st = .search) (hb : b ≠ Config.marker) :
    byteStep c b = .ok { st := .search, cnt := 0, buf := c.buf } := by
  simp only [byteStep, hst, if_neg hb]

/-- In `FIELD` one of the first five bytes is captured at `buf[cnt]`. -/
theorem byteStep_capture {c : Capture} (b : Byte) (hst : c.st = .field) (hlt : c.cnt.val < 5) :
    byteStep c b =
      .ok { st := .field, cnt := ⟨c.cnt.val + 1, by omega⟩, buf := c.buf.set c.cnt.val b (by omega) } := by
  have hlt6 : c.cnt.val < 6 := by omega
  simp only [byteStep, hst, dif_pos hlt6, if_neg (Nat.ne_of_lt hlt)]

/-- In `FIELD` the sixth byte is captured and completes the fields. -/
theorem byteStep_sixth {c : Capture} (b : Byte) (hst : c.st = .field) (h5 : c.cnt.val = 5) :
    byteStep c b = .ok { st := .drain, cnt := 6, buf := c.buf.set c.cnt.val b (by omega) } := by
  have hlt6 : c.cnt.val < 6 := by omega
  simp only [byteStep, hst, dif_pos hlt6, if_pos h5]

/-- In `DRAIN` every byte is ignored. -/
theorem byteStep_drain {c : Capture} (b : Byte) (hst : c.st = .drain) :
    byteStep c b = .ok { st := .drain, cnt := 6, buf := c.buf } := by
  simp only [byteStep, hst]

/-- A byte is not accepted exactly where there is no `buf[cnt]` (R19, R71; log entry 3). -/
theorem byteStep_eq_error_iff {c : Capture} {b : Byte} {f : Fault} :
    byteStep c b = .error f ↔ c.st = .field ∧ c.cnt.val = 6 ∧ f = .captureIndexOutOfRange := by
  rcases byteStep_cases c b with
    ⟨hst, _, h⟩ | ⟨hst, _, h⟩ | ⟨_, _, h5, h⟩ | ⟨_, _, h5, h⟩ | ⟨hst, h6, h⟩ | ⟨hst, h⟩
  · simp [h, hst]
  · simp [h, hst]
  · simp [h, h5]
  · simp [h, show c.cnt.val ≠ 6 by omega]
  · simp [h, hst, h6]
  · simp [h, hst]

/-- Outside `FIELD` no byte is captured (R20, R71). -/
theorem byteStep_buf_of_ne_field {c c' : Capture} {b : Byte} (h : byteStep c b = .ok c') (hst : c.st ≠ .field) :
    c'.buf = c.buf := by
  cases hph : c.st with
  | search =>
    by_cases hb : b = Config.marker
    · rw [hb, byteStep_marker hph] at h; cases h; rfl
    · rw [byteStep_other hph hb] at h; cases h; rfl
  | field => exact absurd hph hst
  | drain => rw [byteStep_drain b hph] at h; cases h; rfl

/-- In `FIELD` an accepted byte is captured at `buf[cnt]`, and no other cell changes (R20, R71). -/
theorem byteStep_buf_of_field {c c' : Capture} {b : Byte} (h : byteStep c b = .ok c') (hst : c.st = .field) :
    ∃ hlt : c.cnt.val < 6, c'.buf = c.buf.set c.cnt.val b hlt := by
  rcases Nat.lt_or_ge c.cnt.val 6 with hlt | hge
  · refine ⟨hlt, ?_⟩
    rcases Nat.lt_or_ge c.cnt.val 5 with h5 | h5
    · rw [byteStep_capture b hst h5] at h; cases h; rfl
    · rw [byteStep_sixth b hst (by omega)] at h; cases h; rfl
  · rw [byteStep_eq_error_iff.mpr ⟨hst, by omega, rfl⟩] at h
    exact nomatch h

/-- An edge faults exactly where the scanner is built and its registers cannot be made. -/
theorem State.edge_eq_fault_iff {s : State} {r : Except Fault (Scanner s.build.outW)} {f : Fault} :
    s.edge r = .fault f ↔ s.build.hasScanner = true ∧ r = .error f := by
  rcases s.edge_cases r with ⟨hs, h⟩ | ⟨hs, g, rfl, h⟩ | ⟨hs, sc, rfl, h⟩ <;> simp [h, hs]

/-- A build without a scanner refuses every edge (R27, R43). -/
theorem State.edge_of_no_scanner {s : State} (hs : s.build.hasScanner = false)
    (r : Except Fault (Scanner s.build.outW)) : s.edge r = .refused .noScannerPorts := by
  simp [State.edge, hs]

/-- Every token takes one edge (R55). -/
theorem exec_eq_edge_of_isToken {i : Instr} (hi : i.isToken = true) (s : State) : ∃ r, exec i s = s.edge r := by
  cases i with
  | dec24 b0 b1 b2 => exact nomatch hi
  | nop => exact ⟨.ok _, rfl⟩
  | byte d => exact ⟨_, rfl⟩
  | endPacket => exact ⟨.ok _, rfl⟩
  | last d => exact ⟨_, rfl⟩

/-- The step of a presented word (R98). -/
theorem step_of_present {s : State} {w : InputWord} {rest : List Move} (h : s.moves = .present w :: rest) :
    step s = exec (decode w) (s.withMoves rest) := by
  simp only [step, State.takeMove_cons h]

/-- The step of a reset edge (R101). -/
theorem step_of_rstEdge {s : State} {tok : TokWord} {rest : List Move} (h : s.moves = .rstEdge tok :: rest) :
    step s = resetEdge tok (s.withMoves rest) := by
  simp only [step, State.takeMove_cons h]

/-! ## The output values -/

/-- The range of `dec24` (R62). -/
theorem dec24_range (b0 b1 b2 : Byte) : -8388608 ≤ dec24 b0 b1 b2 ∧ dec24 b0 b1 b2 ≤ 8388607 := by
  have hlt := fieldUnsigned_lt b0 b1 b2
  rcases dec24_cases b0 b1 b2 with ⟨_, h⟩ | ⟨_, h⟩ <;> omega

/-- No output width of at least 24 bits overflows (R62). -/
theorem toInt_bitsOf {w : Nat} (hw : 24 ≤ w) {x : Int} (hx : -8388608 ≤ x ∧ x ≤ 8388607) :
    (bitsOf w x).toInt = x := by
  have hpow : 2 ^ 23 ≤ 2 ^ (w - 1) := Nat.pow_le_pow_right (by decide) (by omega)
  have hcast : ((2 ^ (w - 1) : Nat) : Int) = 2 ^ (w - 1) := Int.natCast_pow 2 (w - 1)
  have hint : (8388608 : Int) ≤ 2 ^ (w - 1) := hcast ▸ Int.ofNat_le.mpr hpow
  exact BitVec.toInt_ofInt_eq_self (by omega) (by omega) (by omega)

/-- An error report carries zeros (R72, R80). -/
theorem endStep_errors_zero (w : Nat) (c : Capture) (h : (endStep w c).1 ≠ .ok) :
    (endStep w c).2.1 = 0 ∧ (endStep w c).2.2 = 0 := by
  rcases endStep_cases w c with ⟨_, he⟩ | ⟨_, he⟩ | ⟨_, he⟩
  · simp [he]
  · simp [he]
  · exact absurd (by rw [he]) h

/-- A report's values are in the range of `dec24` (R62, R72). -/
theorem endStep_inRange {w : Nat} (hw : 24 ≤ w) (c : Capture) :
    (-8388608 ≤ (endStep w c).2.1.toInt ∧ (endStep w c).2.1.toInt ≤ 8388607) ∧
    (-8388608 ≤ (endStep w c).2.2.toInt ∧ (endStep w c).2.2.toInt ≤ 8388607) := by
  rcases endStep_cases w c with ⟨_, he⟩ | ⟨_, he⟩ | ⟨_, he⟩
  · simp [he]
  · simp [he]
  · have hlat : -8388608 ≤ c.buf.lat ∧ c.buf.lat ≤ 8388607 := dec24_range _ _ _
    have hlon : -8388608 ≤ c.buf.lon ∧ c.buf.lon ≤ 8388607 := dec24_range _ _ _
    simp only [he, toInt_bitsOf hw hlat, toInt_bitsOf hw hlon]
    exact ⟨hlat, hlon⟩

/-! ## The invariant -/

/-- The scanner's part of `State.Inv`, on the registers alone. -/
structure Scanner.Inv {w : Nat} (sc : Scanner w) : Prop where
  legal : sc.toCapture.Legal
  errorsAreZero : sc.ErrorsAreZero
  inRange : sc.InRange

theorem State.inv_iff {s : State} : s.Inv ↔ s.build.wellFormed = true ∧ s.scanner.Inv :=
  ⟨fun ⟨hb, hl, he, hr⟩ => ⟨hb, hl, he, hr⟩, fun ⟨hb, hl, he, hr⟩ => ⟨hb, hl, he, hr⟩⟩

/-- A build the spec admits has at least 24 output bits (R5). -/
theorem Build.outW_ge {b : Build} (h : b.wellFormed = true) : 24 ≤ b.outW :=
  of_decide_eq_true h

/-- An edge inside a packet holds the output registers, so legal capture registers are all it needs (R73, R79). -/
theorem Scanner.Inv.goOn {w : Nat} {sc : Scanner w} {c : Capture} (h : sc.Inv) (hc : c.Legal) : (sc.goOn c).Inv :=
  ⟨hc, h.errorsAreZero, h.inRange⟩

/-- An edge that ends a packet establishes the invariant, whatever the registers held (R70, R73). -/
theorem Scanner.finish_inv {w : Nat} (hw : 24 ≤ w) (sc : Scanner w) (c : Capture) : (sc.finish c).Inv :=
  ⟨.inl ⟨rfl, rfl⟩, endStep_errors_zero w c, endStep_inRange hw c⟩

/-- Registers at a packet boundary with zero outputs meet the invariant: those that reset leaves (R26, R102). -/
theorem Scanner.inv_of_cleared {w : Nat} {sc : Scanner w} (hst : sc.st = .search) (hcnt : sc.cnt = 0)
    (hlat : sc.latQ = 0) (hlon : sc.lonQ = 0) : sc.Inv where
  legal := .inl ⟨hst, by simp [hcnt]⟩
  errorsAreZero _ := ⟨hlat, hlon⟩
  inRange := by simp [Scanner.InRange, hlat, hlon]

/-- Every operation keeps the invariant. -/
theorem exec_keeps_inv {i : Instr} {s t : State} (hs : s.Inv) (h : exec i s = .next t) : t.Inv := by
  obtain ⟨hb, hsc⟩ := State.inv_iff.mp hs
  have hw := Build.outW_ge hb
  rw [State.inv_iff]
  rcases exec_next h with
    ⟨_, _, _, _, rfl⟩ | ⟨_, _, rfl⟩ | ⟨_, _, rfl⟩ | ⟨_, d, c, _, hd, rfl⟩ | ⟨_, _, c, _, _, rfl⟩
  · exact ⟨hb, hsc⟩
  · exact ⟨hb, hsc.goOn hsc.legal⟩
  · exact ⟨hb, s.scanner.finish_inv hw _⟩
  · obtain ⟨c', hd', hlegal⟩ := byteStep_legal d hsc.legal
    rw [hd] at hd'
    injection hd' with hcc
    exact ⟨hb, hsc.goOn (hcc ▸ hlegal)⟩
  · exact ⟨hb, s.scanner.finish_inv hw c⟩

/-- Settles O30, by the four things a step can be: idle with or without a clock, a reset edge, or an operation. -/
theorem everyStepKeepsTheInvariant : Obligations.EveryStepKeepsTheInvariant := by
  intro s t hs h
  obtain ⟨hb, hsc⟩ := State.inv_iff.mp hs
  rcases step_next h with ⟨_, _, rfl⟩ | ⟨_, _, rfl⟩ | ⟨_, rest, _, _, rfl⟩ | ⟨w, rest, _, hw⟩
  · exact State.inv_iff.mpr ⟨hb, hsc.goOn hsc.legal⟩
  · exact hs
  · exact State.inv_iff.mpr ⟨hb, Scanner.inv_of_cleared rfl rfl rfl rfl⟩
  · exact exec_keeps_inv (s := s.withMoves rest) hs hw

/-! ## The frame of an operation, and its fault -/

/-- No operation changes the build or the moves to come (R5, R16). -/
theorem exec_build_moves {i : Instr} {s t : State} (h : exec i s = .next t) :
    t.build = s.build ∧ t.moves = s.moves := by
  rcases exec_next h with
    ⟨_, _, _, _, rfl⟩ | ⟨_, _, rfl⟩ | ⟨_, _, rfl⟩ | ⟨_, _, _, _, _, rfl⟩ | ⟨_, _, _, _, _, rfl⟩ <;> exact ⟨rfl, rfl⟩

/-- `buf` after an operation: as before if it carries no byte, else as `byte_step` leaves it (R71). -/
theorem exec_buf {i : Instr} {s t : State} (h : exec i s = .next t) :
    (i.payload = [] ∧ t.scanner.buf = s.scanner.buf) ∨
    ∃ d c, i.payload = [d] ∧ byteStep s.scanner.toCapture d = .ok c ∧ t.scanner.buf = c.buf := by
  rcases exec_next h with
    ⟨_, _, _, rfl, rfl⟩ | ⟨_, rfl, rfl⟩ | ⟨_, rfl, rfl⟩ | ⟨_, d, c, rfl, hd, rfl⟩ | ⟨_, d, c, rfl, hd, rfl⟩
  · exact .inl ⟨rfl, rfl⟩
  · exact .inl ⟨rfl, rfl⟩
  · exact .inl ⟨rfl, rfl⟩
  · exact .inr ⟨d, c, rfl, hd, rfl⟩
  · exact .inr ⟨d, c, rfl, hd, rfl⟩

/-- Only a token touches the scanner (R15, R66). -/
theorem exec_scanner_of_not_isToken {i : Instr} {s t : State} (h : exec i s = .next t) (hi : i.isToken = false) :
    t.scanner.toCapture = s.scanner.toCapture := by
  cases i with
  | dec24 b0 b1 b2 =>
    injection h with h
    rw [← h]
  | nop => exact nomatch hi
  | byte d => exact nomatch hi
  | endPacket => exact nomatch hi
  | last d => exact nomatch hi

/-- Settles O20: `buf` is what `byte_step` makes of it, which captures in `FIELD` alone. -/
theorem everyOperationHasItsFrame : Obligations.EveryOperationHasItsFrame := by
  intro s t i h
  obtain ⟨hbuild, hmoves⟩ := exec_build_moves h
  refine ⟨hbuild, hmoves, exec_scanner_of_not_isToken h, ?_, ?_⟩
  · intro hcase
    rcases exec_buf h with ⟨_, hbuf⟩ | ⟨d, c, hpay, hd, hbuf⟩
    · exact hbuf
    · rw [hbuf]
      exact byteStep_buf_of_ne_field hd (hcase.resolve_left (by simp [hpay]))
  · intro d hpay hst
    rcases exec_buf h with ⟨hnil, _⟩ | ⟨d', c, hpay', hd, hbuf⟩
    · exact absurd (hpay.symm.trans hnil) (List.cons_ne_nil d [])
    · obtain rfl : d = d' := List.singleton_inj.mp (hpay.symm.trans hpay')
      rw [hbuf]
      exact byteStep_buf_of_field hd hst

/-- An edge that accepts a byte faults exactly where `byte_step` has no slot for it, whatever the edge does then. -/
theorem State.edge_byteStep_eq_fault_iff {s : State} {d : Byte} {f : Fault} (g : Capture → Scanner s.build.outW) :
    s.edge ((byteStep s.scanner.toCapture d).map g) = .fault f ↔
      s.build.hasScanner = true ∧ s.scanner.st = .field ∧ s.scanner.cnt.val = 6 ∧ f = .captureIndexOutOfRange := by
  have hmap : (byteStep s.scanner.toCapture d).map g = .error f ↔ byteStep s.scanner.toCapture d = .error f := by
    cases byteStep s.scanner.toCapture d <;> simp [Except.map]
  rw [State.edge_eq_fault_iff, hmap, byteStep_eq_error_iff]

/-- Settles O21, operation by operation: only `BYTE` and `LAST` call `byte_step`, the one source of a fault. -/
theorem faultOnlyWithoutACaptureSlot : Obligations.FaultOnlyWithoutACaptureSlot := by
  intro s i f
  cases i with
  | dec24 b0 b1 b2 => simp [exec, execDec24, Instr.payload]
  | nop => simp [exec, execNop, State.edge_eq_fault_iff, Instr.payload]
  | byte d => simp [exec, execByte, State.edge_byteStep_eq_fault_iff, Instr.payload]
  | endPacket => simp [exec, execEndPacket, State.edge_eq_fault_iff, Instr.payload]
  | last d => simp [exec, execLast, State.edge_byteStep_eq_fault_iff, Instr.payload]

/-! ## Inside a packet -/

/-- The first `n` cells of `buf` are the first `n` of these bytes. -/
def Buf.HoldsFirst (buf : Buf) (n : Nat) (bytes : List Byte) : Prop := ∀ k, k < n → buf[k]? = bytes[k]?

/-- A later byte is not among the first `n`. -/
theorem Buf.HoldsFirst.append {buf : Buf} {n : Nat} {bytes : List Byte} (h : buf.HoldsFirst n bytes)
    (hn : n ≤ bytes.length) (b : Byte) : buf.HoldsFirst n (bytes ++ [b]) := by
  intro k hk
  rw [List.getElem?_append_left (by omega), h k hk]

/-- A byte captured at the next free cell. -/
theorem Buf.HoldsFirst.set {buf : Buf} {n : Nat} {bytes : List Byte} (h : buf.HoldsFirst n bytes)
    (hn : n = bytes.length) (hlt : n < 6) (b : Byte) : Buf.HoldsFirst (buf.set n b hlt) (n + 1) (bytes ++ [b]) := by
  intro k hk
  rcases Nat.lt_succ_iff_lt_or_eq.mp hk with hk' | rfl
  · rw [Vector.getElem?_set_ne hlt (Nat.ne_of_gt hk')]
    exact h.append (Nat.le_of_eq hn) b k hk'
  · rw [Vector.getElem?_set_self, hn, List.getElem?_concat_length]

/-- What the capture registers hold after the bytes of a packet so far (R18, R19, R20): the three phases, by the first
marker and the bytes after it. -/
inductive Capture.AfterBytes (c : Capture) : List Byte → Prop
  | search {bytes : List Byte} (hmark : Config.marker ∉ bytes) (hst : c.st = .search) (hcnt : c.cnt.val = 0) :
      AfterBytes c bytes
  | field {before after : List Byte} (hmark : Config.marker ∉ before) (hlen : after.length < 6) (hst : c.st = .field)
      (hcnt : c.cnt.val = after.length) (hbuf : c.buf.HoldsFirst c.cnt.val after) :
      AfterBytes c (before ++ Config.marker :: after)
  | drain {before after : List Byte} (hmark : Config.marker ∉ before) (hlen : 6 ≤ after.length) (hst : c.st = .drain)
      (hcnt : c.cnt.val = 6) (hbuf : c.buf.HoldsFirst 6 after) :
      AfterBytes c (before ++ Config.marker :: after)

/-- One more byte of the packet is accepted, and the registers stay those of the bytes so far (R71). -/
theorem byteStep_afterBytes {c : Capture} {bytes : List Byte} (b : Byte) (h : c.AfterBytes bytes) :
    ∃ c', byteStep c b = .ok c' ∧ c'.AfterBytes (bytes ++ [b]) := by
  cases h with
  | search hmark hst hcnt =>
    by_cases hb : b = Config.marker
    · subst hb
      exact ⟨_, byteStep_marker hst, .field hmark (Nat.zero_lt_succ 5) rfl rfl fun k hk => absurd hk (Nat.not_lt_zero k)⟩
    · exact ⟨_, byteStep_other hst hb, .search (by simp [hmark, Ne.symm hb]) rfl rfl⟩
  | field hmark hlen hst hcnt hbuf =>
    have hbuf' := hbuf.set hcnt (hcnt ▸ hlen) b
    rw [List.append_assoc, List.cons_append]
    rcases Nat.lt_or_ge c.cnt.val 5 with h5 | h5
    · exact ⟨_, byteStep_capture b hst h5, .field hmark (by simp; omega) rfl (by simp [hcnt]) hbuf'⟩
    · have h5' : c.cnt.val = 5 := by omega
      exact ⟨_, byteStep_sixth b hst h5', .drain hmark (by simp; omega) rfl rfl (by simpa [h5'] using hbuf')⟩
  | drain hmark hlen hst hcnt hbuf =>
    rw [List.append_assoc, List.cons_append]
    exact ⟨_, byteStep_drain b hst, .drain hmark (by simp; omega) rfl rfl (hbuf.append hlen b)⟩

/-- Every operation that does not end the packet is accepted, and adds its bytes to those of the packet so far. -/
theorem exec_afterBytes {i : Instr} {s : State} {bytes : List Byte} (hs : s.build.hasScanner = true)
    (hi : i.endsPacket = false) (h : s.scanner.AfterBytes bytes) :
    ∃ t, exec i s = .next t ∧ t.scanner.AfterBytes (bytes ++ i.payload) := by
  cases i with
  | dec24 b0 b1 b2 => exact ⟨_, rfl, by simpa [Instr.payload] using h⟩
  | nop => exact ⟨_, s.edge_ok _ hs, by simpa [Instr.payload] using h⟩
  | byte d =>
    obtain ⟨c, hc, h'⟩ := byteStep_afterBytes d h
    refine ⟨s.withScanner (s.scanner.goOn c), ?_, h'⟩
    simp only [exec, execByte, hc, Except.map, s.edge_ok _ hs]
  | endPacket => exact nomatch hi
  | last d => exact nomatch hi

/-- The run of any words that end no packet, by induction on them: it makes those moves, keeps the build, and adds the
words' bytes to those of the packet so far. -/
theorem core_run_afterBytes (body : List InputWord) {s : State} {bytes : List Byte} {rest : List Move}
    (hs : s.build.hasScanner = true) (h : s.scanner.AfterBytes bytes)
    (hbody : ∀ w ∈ body, (decode w).endsPacket = false) (hm : s.moves = body.map .present ++ rest) :
    ∃ t, Sys2Proof.core.run body.length s = .next t ∧ t.moves = rest ∧ t.build = s.build ∧
      t.scanner.AfterBytes (bytes ++ payloadOf body) := by
  induction body generalizing s bytes with
  | nil => exact ⟨s, rfl, hm, rfl, by simpa [payloadOf] using h⟩
  | cons w ws ih =>
    obtain ⟨hw, hws⟩ := List.forall_mem_cons.mp hbody
    obtain ⟨t, ht, htc⟩ := exec_afterBytes (s := s.withMoves (ws.map .present ++ rest)) hs hw h
    have hstep : step s = .next t := (step_of_present hm).trans ht
    obtain ⟨hbuild, hmoves⟩ := exec_build_moves ht
    obtain ⟨u, hu, hum, hub, huc⟩ := ih (hbuild ▸ hs) htc hws hmoves
    refine ⟨u, (core_run_of_step hstep).trans hu, hum, hub.trans hbuild, ?_⟩
    simpa [payloadOf] using huc

/-- The first marker splits a packet in one way only. -/
theorem split_at_first_marker {before after before' after' : List Byte} (hb : Config.marker ∉ before)
    (hb' : Config.marker ∉ before') (h : before ++ Config.marker :: after = before' ++ Config.marker :: after') :
    before = before' ∧ after = after' := by
  have hlen : before.length = before'.length := by
    simpa [List.idxOf_append, hb, hb'] using
      congrArg (List.idxOf Config.marker) h
  obtain ⟨hbefore, hafter⟩ := List.append_inj h hlen
  exact ⟨hbefore, (List.cons.inj hafter).2⟩

/-- Without a marker so far, the scanner still searches. -/
theorem Capture.AfterBytes.of_no_marker {c : Capture} {bytes : List Byte} (h : c.AfterBytes bytes)
    (hmark : Config.marker ∉ bytes) : c.st = .search ∧ c.cnt.val = 0 := by
  cases h with
  | search _ hst hcnt => exact ⟨hst, hcnt⟩
  | field => simp at hmark
  | drain => simp at hmark

/-- With a marker, the number of bytes after the first one tells the phase. -/
theorem Capture.AfterBytes.of_marker {c : Capture} {before after : List Byte}
    (h : c.AfterBytes (before ++ Config.marker :: after)) (hmark : Config.marker ∉ before) :
    (after.length < 6 → c.st = .field ∧ c.cnt.val = after.length ∧ c.buf.HoldsFirst after.length after) ∧
    (6 ≤ after.length → c.st = .drain ∧ c.cnt.val = 6 ∧ c.buf.HoldsFirst 6 after) := by
  generalize hbytes : before ++ Config.marker :: after = bytes at h
  cases h with
  | search hnone => simp [← hbytes] at hnone
  | field hmark' hlen hst hcnt hbuf =>
    obtain ⟨-, rfl⟩ := split_at_first_marker hmark hmark' hbytes
    exact ⟨fun _ => ⟨hst, hcnt, hcnt ▸ hbuf⟩, fun hge => absurd hlen (Nat.not_lt.mpr hge)⟩
  | drain hmark' hlen hst hcnt hbuf =>
    obtain ⟨-, rfl⟩ := split_at_first_marker hmark hmark' hbytes
    exact ⟨fun hlt => absurd hlt (Nat.not_lt.mpr hlen), fun _ => ⟨hst, hcnt, hbuf⟩⟩

/-- Settles O33: the run adds the body's bytes to the empty list that a packet boundary stands for. -/
theorem stateAfterAPacketPrefix : Obligations.StateAfterAPacketPrefix := by
  intro s body rest hs hst hcnt hbody hm
  have hstart : s.scanner.AfterBytes [] := .search (List.not_mem_nil) hst hcnt
  obtain ⟨t, ht, htm, -, htc⟩ := core_run_afterBytes body hs hstart hbody hm
  rw [List.nil_append] at htc
  refine ⟨t, ht, htm, htc.of_no_marker, fun before after hbytes hmark => ?_⟩
  exact (hbytes ▸ htc).of_marker hmark

/-! ## Ports and reset -/

/-- Settles O22: a build without a scanner refuses every edge, and `DEC24` takes none. -/
theorem decoderOnlyBuild : Obligations.DecoderOnlyBuild := by
  intro s hs
  refine ⟨by simp [State.rep, hs], by simp [State.reportNow, hs], fun _ _ _ => rfl, fun i hi => ?_, fun tok rest hm => ?_⟩
  · obtain ⟨r, hr⟩ := exec_eq_edge_of_isToken hi s
    rw [hr, State.edge_of_no_scanner hs]
  · rw [step_of_rstEdge hm, resetEdge]
    exact State.edge_of_no_scanner (s := s.withMoves rest) hs _

/-- Settles O23: a build with a scanner has the ports, and they are the registers. -/
theorem outputPortsShowTheRegisters : Obligations.OutputPortsShowTheRegisters := by
  intro s hs
  rw [State.rep, if_pos hs, Scanner.rep]

/-- Settles O28: the values of `Scanner.atReset`. -/
theorem resetLeavesTheListedValues : Obligations.ResetLeavesTheListedValues :=
  fun _ => ⟨rfl, rfl, rfl, rfl, rfl, rfl⟩

/-- Settles O29: reset leaves a packet boundary with zero outputs. -/
theorem invariantAtReset : Obligations.InvariantAtReset := by
  intro b hb
  exact State.inv_iff.mpr ⟨hb, Scanner.inv_of_cleared rfl rfl rfl rfl⟩

end Sys2Proof.Machine
end

section
/-! PROOFS. The decoder core and the scanner do not touch each other: a token's edge is made from the scanner's registers
alone, `DEC24` writes `din` alone. -/

namespace Sys2Proof.Machine

open Sys2Proof

/-- A token's edge is made without `din`: whatever the level on it, the edge makes the same registers (R39, R42). -/
theorem exec_withDin_eq_edge_of_isToken {i : Instr} (hi : i.isToken = true) (s : State) :
    ∃ r : Except Fault (Scanner s.build.outW), ∀ w, exec i (s.withDin w) = (s.withDin w).edge r := by
  cases i with
  | dec24 b0 b1 b2 => exact nomatch hi
  | nop => exact ⟨.ok (s.scanner.goOn s.scanner.toCapture), fun _ => rfl⟩
  | byte d => exact ⟨(byteStep s.scanner.toCapture d).map s.scanner.goOn, fun _ => rfl⟩
  | endPacket => exact ⟨.ok (s.scanner.finish s.scanner.toCapture), fun _ => rfl⟩
  | last d => exact ⟨(byteStep s.scanner.toCapture d).map s.scanner.finish, fun _ => rfl⟩

/-- A token that answers a next state keeps the level on `din` (R38). -/
theorem exec_din_of_isToken {i : Instr} {s t : State} (hi : i.isToken = true) (h : exec i s = .next t) :
    t.din = s.din := by
  obtain ⟨r, hr⟩ := exec_eq_edge_of_isToken hi s
  obtain ⟨-, sc, -, rfl⟩ := State.edge_next (hr ▸ h)
  rfl

/-- `DEC24` changes the level on `din` and nothing else (R60, R66). -/
theorem exec_eq_withDin_of_not_isToken {i : Instr} {s t : State} (hi : i.isToken = false) (h : exec i s = .next t) :
    t = s.withDin t.din := by
  rcases exec_next h with
    ⟨_, _, _, _, rfl⟩ | ⟨_, rfl, _⟩ | ⟨_, rfl, _⟩ | ⟨_, _, _, rfl, _⟩ | ⟨_, _, _, rfl, _⟩
  · rfl
  all_goals exact nomatch hi

/-- Settles O11, its first clause by the three ways the token's edge can end; `dout` reads the build and `din` alone. -/
theorem decoderAndScannerAreIndependent : Obligations.DecoderAndScannerAreIndependent := by
  refine ⟨fun s i w hi => ?_, fun _ _ _ hi h => exec_din_of_isToken hi h,
    fun _ _ _ hi h => exec_eq_withDin_of_not_isToken hi h, fun _ _ _ => rfl⟩
  obtain ⟨r, hr⟩ := exec_withDin_eq_edge_of_isToken hi s
  have hs : exec i s = s.edge r := hr s.din
  rw [hr w, hs]
  rcases s.edge_cases r with ⟨hb, h⟩ | ⟨hb, f, rfl, h⟩ | ⟨hb, sc, rfl, h⟩ <;> rw [h]
  · exact State.edge_of_no_scanner (s := s.withDin w) hb r
  · exact State.edge_eq_fault_iff (s := s.withDin w).mpr ⟨hb, rfl⟩
  · exact State.edge_ok (s.withDin w) sc hb

end Sys2Proof.Machine
end

section
/-! PROOFS. The encoding family: the two formats and the encoder written from the same tables (R44, R47, R49, R50,
R55, R56), and the codes of `status`, `st` and `cnt` (R51, R52).

The idea for the words: a word of a format is composed of its fields, and its fields are read back from the
composition. So decoding and encoding are each other's inverse, but for the byte that `NOP` and `END` ignore. -/

namespace Sys2Proof.Machine

open Sys2Proof

/-! ## Words and their fields -/

/-- The bits of a token word: `in_byte`, above it `in_end`, and `in_valid` on top (R47). -/
theorem getLsbD_tokWordOf (v e : Bool) (d : Byte) (k : Nat) :
    (tokWordOf v e d).getLsbD k = if k < 8 then d.getLsbD k else if k = 8 then e else decide (k = 9) && v := by
  rw [tokWordOf, BitVec.getLsbD_append, BitVec.getLsbD_append, BitVec.getLsbD_ofBool, BitVec.getLsbD_ofBool]
  rcases Nat.lt_trichotomy k 8 with h | rfl | h
  · rw [if_pos h, if_pos h]
  · rfl
  · have hlt : ¬k < 8 ∧ k ≠ 8 ∧ ¬k - 8 < 1 := by omega
    have h9 : k - 8 - 1 = 0 ↔ k = 9 := by omega
    simp only [hlt, h9, if_false]

@[simp] theorem tokV_tokWordOf (v e : Bool) (d : Byte) : tokV (tokWordOf v e d) = v := by
  simp only [tokV, getLsbD_tokWordOf]
  rfl

@[simp] theorem tokE_tokWordOf (v e : Bool) (d : Byte) : tokE (tokWordOf v e d) = e := by
  simp only [tokE, getLsbD_tokWordOf]
  rfl

@[simp] theorem tokD_tokWordOf (v e : Bool) (d : Byte) : tokD (tokWordOf v e d) = d := by
  apply BitVec.eq_of_getLsbD_eq
  intro k hk
  simp only [tokD, BitVec.getLsbD_extractLsb', Nat.zero_add, getLsbD_tokWordOf, hk, decide_true, Bool.true_and, if_true]

/-- A token word is composed of its own fields (R47). -/
theorem tokWordOf_fields (t : TokWord) : tokWordOf (tokV t) (tokE t) (tokD t) = t := by
  apply BitVec.eq_of_getLsbD_eq
  intro k hk
  rw [getLsbD_tokWordOf]
  obtain hk8 | rfl | rfl : k < 8 ∨ k = 8 ∨ k = 9 := by omega
  · simp [tokD, hk8]
  · simp [tokE]
  · simp [tokV]

/-- The mask of R49 keeps `in_valid` and `in_end`, and drops the byte. -/
theorem tokWordOf_and_mask (v e : Bool) (d : Byte) : tokWordOf v e d &&& 0x300 = tokWordOf v e 0 := by
  apply BitVec.eq_of_toNat_eq
  calc (tokWordOf v e d &&& 0x300).toNat
      = v.toNat * 512 + e.toNat * 256 := Laws.TableRow.token_selected v e d
    _ = (tokWordOf v e 0).toNat := by cases v <;> cases e <;> rfl

/-- A `DEC` word is composed of its own bytes (R44). -/
theorem decWordOf_bytes (w : DecWord) : decWordOf (decB0 w) (decB1 w) (decB2 w) = w := by
  apply BitVec.eq_of_toNat_eq
  rw [decWordOf_toNat, fieldUnsigned_word]

/-! ## Decoding and encoding -/

/-- `in_valid` and `in_end` select the token kind, and the byte is the operand of two of the kinds (R49, R50). -/
theorem decode_tokWordOf (v e : Bool) (d : Byte) :
    decode (.tok (tokWordOf v e d)) =
      bif v then (bif e then .last d else .byte d) else (bif e then .endPacket else .nop) := by
  cases v <;> cases e <;> simp [decode, decodeTok]

/-- The encoder composes a word of the operation's fields, and the decoder reads them back. -/
@[simp] theorem decode_encode (i : Instr) : decode (encode i) = i := by
  cases i with
  | dec24 b0 b1 b2 => simp [encode, decode, decodeDec]
  | nop => exact decode_tokWordOf false false 0
  | byte d => exact decode_tokWordOf true false d
  | endPacket => exact decode_tokWordOf false true 0
  | last d => exact decode_tokWordOf true true d

/-- Settles O4: the round trip needs no hypothesis, as every word of a format is valid in every build (R53). -/
theorem decodeOfEncode : Obligations.DecodeOfEncode :=
  fun _ i _ => decode_encode i

/-- A token word selects an operation of format `TOK` (R55). -/
@[simp] theorem isToken_decode_tok (t : TokWord) : (decode (.tok t)).isToken = true := by
  rw [← tokWordOf_fields t, decode_tokWordOf]
  cases tokV t <;> cases tokE t <;> rfl

/-- The encoder writes a decoded token's word again, with the byte that `NOP` and `END` ignore as 0 (R50). -/
theorem encode_decode_tokWordOf (v e : Bool) (d : Byte) :
    encode (decode (.tok (tokWordOf v e d))) = .tok (tokWordOf v e (bif v then d else 0)) := by
  rw [decode_tokWordOf]
  cases v <;> cases e <;> rfl

/-- Settles O5: a word is composed of its fields, and the encoder composes it again of those that the operation keeps. -/
theorem encodeOfDecode : Obligations.EncodeOfDecode := by
  refine ⟨fun w => congrArg InputWord.dec (decWordOf_bytes w), fun t (hv : tokV t = true) => ?_,
    fun t (hv : tokV t = false) => ?_⟩
  · rw [← tokWordOf_fields t, hv, encode_decode_tokWordOf, cond_true]
  · rw [← tokWordOf_fields t, hv, encode_decode_tokWordOf, cond_false, tokWordOf_and_mask]

/-- Settles O1: each word is computed. -/
theorem specWordsDecode : Obligations.SpecWordsDecode := by
  refine ⟨?_, ?_, ?_, ?_, ?_, ?_⟩ <;> rfl

/-- Settles O2: the two bits are `in_valid` and `in_end`, and the decoder reads them alone. -/
theorem tokenBitsSelectTheKind : Obligations.TokenBitsSelectTheKind := fun d =>
  ⟨decode_tokWordOf false false d, decode_tokWordOf true false d, decode_tokWordOf false true d,
    decode_tokWordOf true true d, rfl, rfl⟩

/-- A row of the opcode table selects a token exactly if it is a row of format `TOK` whose pattern is the token's two kind
bits (R47, R49). -/
theorem selects_tokWordOf_iff {r : Row} (hr : r ∈ opcodeTable) (v e : Bool) (d : Byte) :
    r.selects (.tok (tokWordOf v e d)) = true ↔ r.width = 10 ∧ r.pattern = v.toNat * 512 + e.toNat * 256 := by
  have hformat : ∀ r ∈ opcodeTable, r.width = 10 → r.mask = 0x300 := by decide
  simp only [Row.selects, InputWord.width, InputWord.toNat, Bool.and_eq_true, beq_iff_eq]
  refine and_congr_right fun hw => ?_
  rw [hformat r hr hw, Laws.TableRow.token_selected, eq_comm]

/-- Every operation's own row selects the word the encoder writes for it (R49, R55). -/
theorem tableRow_statement (i : Instr) : Laws.TableRow.Statement i := by
  cases i with
  | dec24 b0 b1 b2 => exact Laws.TableRow.dec24 b0 b1 b2
  | nop => exact Laws.TableRow.nop
  | byte d => exact Laws.TableRow.byte d
  | endPacket => exact Laws.TableRow.endPacket
  | last d => exact Laws.TableRow.last d

/-- Settles O3: the operation's own row selects the encoder's word, so also the word it was decoded from, which has the same
kind bits; and no two rows of format `TOK` have the same pattern. -/
theorem everyTokenHasOneRow : Obligations.EveryTokenHasOneRow := by
  have hunique : ∀ r ∈ opcodeTable, ∀ r' ∈ opcodeTable,
      r.width = 10 → r'.width = 10 → r'.pattern = r.pattern → r' = r := by decide
  intro t
  rw [← tokWordOf_fields t]
  generalize tokV t = v, tokE t = e, tokD t = d
  obtain ⟨r, hr, hname, hsel⟩ := tableRow_statement (decode (.tok (tokWordOf v e d)))
  rw [encode_decode_tokWordOf, selects_tokWordOf_iff hr] at hsel
  refine ⟨r, hr, (selects_tokWordOf_iff hr v e d).mpr hsel, hname, fun r' hr' hsel' => ?_⟩
  obtain ⟨hwidth, hpattern⟩ := hsel
  obtain ⟨hwidth', hpattern'⟩ := (selects_tokWordOf_iff hr' v e d).mp hsel'
  exact hunique r hr r' hr' hwidth hwidth' (hpattern'.trans hpattern.symm)

/-- Settles O24: the codes are computed, and `cnt` is below 7, so its three bits hold it. -/
theorem codesAreAsListed : Obligations.CodesAreAsListed := by
  refine ⟨rfl, rfl, rfl, fun q => ?_, rfl, rfl, rfl, fun p => ?_, fun c => ?_⟩
  · cases q <;> decide
  · cases p <;> decide
  · have hlt : c.cnt.val < 7 := c.cnt.isLt
    have hval : c.cntCode.toNat = c.cnt.val := by
      rw [Capture.cntCode, BitVec.toNat_ofNat, Nat.mod_eq_of_lt (by omega)]
    refine ⟨hval, fun h7 => ?_⟩
    rw [h7] at hval
    exact absurd hval (Nat.ne_of_gt hlt)

end Sys2Proof.Machine
end

section
/-! PROOFS. Steps and runs: `LAST` is `BYTE` then `END` (R57, R77), a safe machine is never stopped (R53, R82, R87, R110),
and a stream of packets gives one report for each, `scan` of that packet's own bytes (R81, R90, R91, R92, R100, R111). -/

namespace Sys2Proof.Machine

open Sys2Proof

/-! ## One step -/

/-- Settles O26: the model's step of a presented word. -/
theorem stepRunsThePresentedWord : Obligations.StepRunsThePresentedWord :=
  fun _ _ _ hm => step_of_present hm

/-- Settles O16, by the two kinds of build and what `byte_step` answers: the registers that `END` writes after `BYTE d`
are those that `LAST d` writes, as `END` reads the capture registers alone. -/
theorem lastIsByteThenEnd : Obligations.LastIsByteThenEnd := by
  intro s d
  cases hs : s.build.hasScanner with
  | false => simp only [exec, execByte, execLast, State.edge_of_no_scanner hs]
  | true =>
    cases hc : byteStep s.scanner.toCapture d with
    | error f => simp only [exec, execByte, execLast, hc, Except.map, State.edge_eq_fault_iff.mpr ⟨hs, rfl⟩]
    | ok c =>
      simp only [exec, execByte, execLast, hc, Except.map, s.edge_ok _ hs]
      exact (State.edge_ok (s.withScanner (s.scanner.goOn c)) _ hs).symm

/-! ## Progress -/

/-- A word that the build has ports for selects an operation that it has ports for (R43, R55). -/
theorem decode_wellFormed {b : Build} {w : InputWord} (h : w.wellFormed b = true) : (decode w).wellFormed b = true := by
  cases w with
  | dec w => rfl
  | tok t =>
    have hb : b.hasScanner = true := h
    simp [Instr.wellFormed, hb]

/-- An operation that the build has ports for is accepted where the capture registers are legal (R25, R53). -/
theorem exec_progress {i : Instr} {s : State} (hi : i.wellFormed s.build = true) (hc : s.scanner.toCapture.Legal) :
    ∃ t, exec i s = .next t := by
  have hports : i.isToken = true → s.build.hasScanner = true := fun htok => by simpa [Instr.wellFormed, htok] using hi
  cases i with
  | dec24 b0 b1 b2 => exact ⟨_, rfl⟩
  | nop => exact ⟨_, s.edge_ok _ (hports rfl)⟩
  | endPacket => exact ⟨_, s.edge_ok _ (hports rfl)⟩
  | byte d =>
    obtain ⟨c, hd, _⟩ := byteStep_legal d hc
    exact ⟨s.withScanner (s.scanner.goOn c), by simp only [exec, execByte, hd, Except.map, s.edge_ok _ (hports rfl)]⟩
  | last d =>
    obtain ⟨c, hd, _⟩ := byteStep_legal d hc
    exact ⟨s.withScanner (s.scanner.finish c), by simp only [exec, execLast, hd, Except.map, s.edge_ok _ (hports rfl)]⟩

/-- A step from a safe state is accepted, by what the next move is. -/
theorem step_progress {s : State} (hs : s.Safe) : ∃ t, step s = .next t := by
  obtain ⟨⟨_, hlegal, _, _⟩, hfit⟩ := hs
  cases hm : s.moves with
  | nil =>
    rw [step_of_no_moves hm, idleStep]
    split
    · exact ⟨_, rfl⟩
    · exact ⟨_, rfl⟩
  | cons m rest =>
    have hmove : m.wellFormed s.build = true := hfit m (hm ▸ List.mem_cons_self)
    cases m with
    | rstEdge tok => exact ⟨_, (step_of_rstEdge hm).trans ((s.withMoves rest).edge_ok _ hmove)⟩
    | present w =>
      obtain ⟨t, ht⟩ := exec_progress (s := s.withMoves rest) (decode_wellFormed hmove) hlegal
      exact ⟨t, (step_of_present hm).trans ht⟩

/-- A step keeps the build, and makes the next of the host's moves (R5, R98). -/
theorem step_build_moves {s t : State} (h : step s = .next t) : t.build = s.build ∧ t.moves = s.moves.tail := by
  rcases step_next h with ⟨hm, _, rfl⟩ | ⟨hm, _, rfl⟩ | ⟨_, _, hm, _, rfl⟩ | ⟨w, rest, hm, hw⟩
  · exact ⟨rfl, by simp [hm]⟩
  · exact ⟨rfl, by simp [hm]⟩
  · exact ⟨rfl, by simp [hm]⟩
  · rw [hm]
    exact exec_build_moves (s := s.withMoves rest) hw

/-- A step from a safe state leaves a safe state. -/
theorem step_keeps_safe {s t : State} (hs : s.Safe) (h : step s = .next t) : t.Safe := by
  obtain ⟨hinv, hfit⟩ := hs
  obtain ⟨hbuild, hmoves⟩ := step_build_moves h
  refine ⟨everyStepKeepsTheInvariant s t hinv h, fun m hm => ?_⟩
  rw [hbuild]
  exact hfit m (List.mem_of_mem_tail (hmoves ▸ hm))

/-- Settles O31, by induction on the number of moves: progress and preservation. -/
theorem noMoveStopsASafeMachine : Obligations.NoMoveStopsASafeMachine := by
  intro n
  induction n with
  | zero => exact fun s hs => ⟨s, rfl, hs⟩
  | succ n ih =>
    intro s hs
    obtain ⟨t, ht⟩ := step_progress hs
    rw [core_run_of_step ht]
    exact ih t (step_keeps_safe hs ht)

/-! ## Runs one after the other -/

/-- A run that is continued. -/
theorem core_run_add {m : Nat} (n : Nat) {s t : State} (h : Sys2Proof.core.run m s = .next t) :
    Sys2Proof.core.run (m + n) s = Sys2Proof.core.run n t := by
  induction m generalizing s with
  | zero =>
    injection h with h
    rw [Nat.zero_add, h]
  | succ m ih =>
    rw [Nat.succ_add]
    cases hs : step s with
    | next u =>
      rw [core_run_of_step hs] at h ⊢
      exact ih h
    | fault f => rw [core_run_of_fault hs] at h; exact nomatch h
    | refused r => rw [core_run_of_refused hs] at h; exact nomatch h

/-- The reports of a run that is continued (R100). -/
theorem observe_add {m : Nat} (n : Nat) {s t : State} (h : Sys2Proof.core.run m s = .next t) :
    observe (m + n) s = observe m s ++ observe n t := by
  induction m generalizing s with
  | zero =>
    injection h with h
    rw [Nat.zero_add, h]
    rfl
  | succ m ih =>
    rw [Nat.succ_add]
    cases hs : step s with
    | next u =>
      rw [core_run_of_step hs] at h
      rw [observe_of_step hs, observe_of_step hs, ih h, List.append_assoc]
    | fault f => rw [core_run_of_fault hs] at h; exact nomatch h
    | refused r => rw [core_run_of_refused hs] at h; exact nomatch h

/-- Without `done_q` no report is present (R48). -/
theorem State.reportNow_of_not_done {s : State} (h : s.scanner.doneQ = false) : s.reportNow = none := by
  simp [State.reportNow, Scanner.reportNow, h]

/-! ## The report of a packet -/

/-- `done_q` after a token tells whether it ended a packet (R78). -/
theorem exec_doneQ_of_isToken {i : Instr} {s t : State} (hi : i.isToken = true) (h : exec i s = .next t) :
    t.scanner.doneQ = i.endsPacket := by
  rcases exec_next h with
    ⟨_, _, _, rfl, _⟩ | ⟨_, rfl, rfl⟩ | ⟨_, rfl, rfl⟩ | ⟨_, _, _, rfl, _, rfl⟩ | ⟨_, _, _, rfl, _, rfl⟩
  · exact nomatch hi
  all_goals rfl

/-- The search for the marker fails where there is none. -/
theorem findIdx?_marker_eq_none {bytes : List Byte} (h : Config.marker ∉ bytes) :
    bytes.findIdx? (fun b => b == Config.marker) = none := by
  rw [List.findIdx?_eq_none_iff]
  exact fun b hb => beq_false_of_ne fun hbm => h (hbm ▸ hb)

/-- Without a marker `scan` finds none (R68). -/
theorem scan_of_no_marker {pkt : List Byte} (h : Config.marker ∉ pkt) : scan pkt = .markerNotFound := by
  simp only [scan, findIdx?_marker_eq_none h]

/-- With a marker `scan` looks at the bytes after the first one alone (R68). -/
theorem scan_of_marker {before : List Byte} (after : List Byte) (h : Config.marker ∉ before) :
    scan (before ++ Config.marker :: after) =
      if after.length < 6 then .truncated
      else .ok (dec24 (after.getD 0 0) (after.getD 1 0) (after.getD 2 0))
        (dec24 (after.getD 3 0) (after.getD 4 0) (after.getD 5 0)) := by
  have hfirst : (before ++ Config.marker :: after).findIdx? (fun b => b == Config.marker) = some before.length := by
    simp [List.findIdx?_append, findIdx?_marker_eq_none h, List.findIdx?_cons]
  have hlen : (before ++ Config.marker :: after).length - (before.length + 1) = after.length := by
    rw [List.length_append, List.length_cons]
    omega
  have hget (k : Nat) : (before ++ Config.marker :: after).getD (before.length + 1 + k) 0 = after.getD k 0 := by
    have hle : before.length ≤ before.length + 1 + k := by omega
    have hsub : before.length + 1 + k - before.length = k + 1 := by omega
    rw [List.getD_eq_getElem?_getD, List.getElem?_append_right hle, hsub, List.getElem?_cons_succ,
      List.getD_eq_getElem?_getD]
  have hget0 : (before ++ Config.marker :: after).getD (before.length + 1) 0 = after.getD 0 0 := hget 0
  simp only [scan, hfirst, hlen, hget, hget0]
  rfl

/-- A captured byte is the packet's. -/
theorem Buf.HoldsFirst.getD {buf : Buf} {n : Nat} {bytes : List Byte} (h : buf.HoldsFirst n bytes) {k : Nat} (hk : k < n)
    (hk6 : k < 6) : bytes.getD k 0 = buf[k] := by
  rw [List.getD_eq_getElem?_getD, ← h k hk, Vector.getElem?_eq_getElem, Option.getD_some]

/-- An edge that ends a packet reports what `scan` says of the packet's bytes (R72, R81). -/
theorem Scanner.reportNow_finish {w : Nat} (hw : 24 ≤ w) (sc : Scanner w) {c : Capture} {bytes : List Byte}
    (h : c.AfterBytes bytes) : (sc.finish c).reportNow = some (scan bytes) := by
  cases h with
  | search hmark hst hcnt => simp [Scanner.reportNow, endStep, hst, scan_of_no_marker hmark]
  | field hmark hlen hst hcnt hbuf => simp [Scanner.reportNow, endStep, hst, scan_of_marker _ hmark, hlen]
  | drain hmark hlen hst hcnt hbuf =>
    have hlat : -8388608 ≤ c.buf.lat ∧ c.buf.lat ≤ 8388607 := dec24_range _ _ _
    have hlon : -8388608 ≤ c.buf.lon ∧ c.buf.lon ≤ 8388607 := dec24_range _ _ _
    rw [scan_of_marker _ hmark, if_neg (Nat.not_lt.mpr hlen)]
    simp (disch := decide) only [hbuf.getD]
    simp only [Scanner.reportNow, Scanner.finish_doneQ, Scanner.finish_statusQ, Scanner.finish_latQ, Scanner.finish_lonQ,
      endStep, hst, if_true, toInt_bitsOf hw hlat, toInt_bitsOf hw hlon]
    rfl

/-- A packet boundary of a build with a scanner: where a packet starts (R67, R90). -/
structure State.AtBoundary (s : State) : Prop where
  wellFormed : s.build.wellFormed = true
  hasScanner : s.build.hasScanner = true
  st : s.scanner.st = .search
  cnt : s.scanner.cnt.val = 0

/-- At a boundary the packet has no bytes yet. -/
theorem State.AtBoundary.afterBytes {s : State} (h : s.AtBoundary) : s.scanner.AfterBytes [] :=
  .search List.not_mem_nil h.st h.cnt

/-- An operation that ends the packet reports it, and leaves a boundary. -/
theorem exec_report {i : Instr} {s : State} {bytes : List Byte} (hb : s.build.wellFormed = true)
    (hs : s.build.hasScanner = true) (hi : i.endsPacket = true) (h : s.scanner.AfterBytes bytes) :
    ∃ t, exec i s = .next t ∧ t.AtBoundary ∧ t.reportNow = some (scan (bytes ++ i.payload)) := by
  have hfinish {c : Capture} {bytes : List Byte} (hc : c.AfterBytes bytes) :
      (s.withScanner (s.scanner.finish c)).AtBoundary ∧
      (s.withScanner (s.scanner.finish c)).reportNow = some (scan bytes) :=
    ⟨⟨hb, hs, rfl, rfl⟩, (if_pos hs).trans (s.scanner.reportNow_finish (Build.outW_ge hb) hc)⟩
  cases i with
  | dec24 b0 b1 b2 => exact nomatch hi
  | nop => exact nomatch hi
  | byte d => exact nomatch hi
  | endPacket => exact ⟨_, s.edge_ok _ hs, by simpa [Instr.payload] using hfinish h⟩
  | last d =>
    obtain ⟨c, hc, h'⟩ := byteStep_afterBytes d h
    exact ⟨_, by simp only [exec, execLast, hc, Except.map, s.edge_ok _ hs], hfinish h'⟩

/-- A step of a word that ends no packet gives no report. -/
theorem step_no_report {s t : State} {w : InputWord} {rest : List Move} (hm : s.moves = .present w :: rest)
    (hw : (decode w).endsPacket = false) (h : step s = .next t) :
    (if s.nextIsEdge then t.reportNow.toList else []) = [] := by
  cases w with
  | dec w => simp [nextIsEdge_dec hm]
  | tok tok =>
    have hdone := exec_doneQ_of_isToken (isToken_decode_tok tok) ((step_of_present hm).symm.trans h)
    simp [State.reportNow_of_not_done (hdone.trans hw)]

/-- Words that end no packet give no report, whether the run stops or not. -/
theorem observe_body (body : List InputWord) {s : State} {rest : List Move}
    (hbody : ∀ w ∈ body, (decode w).endsPacket = false) (hm : s.moves = body.map .present ++ rest) :
    observe body.length s = [] := by
  induction body generalizing s with
  | nil => rfl
  | cons w ws ih =>
    obtain ⟨hw, hws⟩ := List.forall_mem_cons.mp hbody
    cases hs : step s with
    | next t =>
      have hmoves : t.moves = ws.map .present ++ rest := by rw [(step_build_moves hs).2, hm]; rfl
      rw [List.length_cons, observe_of_step hs, step_no_report hm hw hs, ih hws hmoves, List.append_nil]
    | fault f => simp only [List.length_cons, observe, hs]
    | refused r => simp only [List.length_cons, observe, hs]

/-- A word that ends a packet is a token, so its step is an edge (R55). -/
theorem nextIsEdge_of_endsPacket {s : State} {w : InputWord} {rest : List Move} (hm : s.moves = .present w :: rest)
    (hw : (decode w).endsPacket = true) : s.nextIsEdge = true := by
  cases w with
  | dec w => exact nomatch hw
  | tok t => exact nextIsEdge_tok hm

/-- One packet, from a boundary to the next one: any words that do not end it, then one that does. It gives one report, at
its last edge: `scan` of its bytes (R81). -/
theorem observe_packet {s : State} {body : List InputWord} {ending : InputWord} {rest : List Move} (hs : s.AtBoundary)
    (hbody : ∀ w ∈ body, (decode w).endsPacket = false) (hend : (decode ending).endsPacket = true)
    (hm : s.moves = body.map .present ++ .present ending :: rest) :
    observe (body.length + 1) s = [scan (payloadOf (body ++ [ending]))] ∧
    ∃ t, Sys2Proof.core.run (body.length + 1) s = .next t ∧ t.moves = rest ∧ t.build = s.build ∧ t.AtBoundary ∧
      t.reportNow = some (scan (payloadOf (body ++ [ending]))) := by
  obtain ⟨u, hu, humoves, hubuild, hubytes⟩ := core_run_afterBytes body hs.hasScanner hs.afterBytes hbody hm
  obtain ⟨t, ht, hboundary, hreport⟩ := exec_report (s := u.withMoves rest) (hubuild ▸ hs.wellFormed)
    (hubuild ▸ hs.hasScanner) hend hubytes
  have hbytes : payloadOf (body ++ [ending]) = [] ++ payloadOf body ++ (decode ending).payload := by
    simp [payloadOf]
  have hstep : step u = .next t := (step_of_present humoves).trans ht
  obtain ⟨htbuild, htmoves⟩ := exec_build_moves ht
  rw [hbytes]
  constructor
  · rw [observe_add 1 hu, observe_body body hbody hm, observe_of_step hstep, nextIsEdge_of_endsPacket humoves hend,
      hreport]
    rfl
  · exact ⟨t, (core_run_add 1 hu).trans (core_run_of_step hstep), htmoves, htbuild.trans hubuild, hboundary, hreport⟩

/-! ## A stream of packets -/

/-- The words of `PKT` (R57): all but the last end no packet, the last one does, and they carry the packet's bytes. -/
theorem pktMoves_words (pkt : List Byte) :
    ∃ body ending, pktMoves pkt = body.map .present ++ [.present ending] ∧
      (∀ w ∈ body, (decode w).endsPacket = false) ∧ (decode ending).endsPacket = true ∧
      payloadOf (body ++ [ending]) = pkt := by
  induction pkt using pktTokens.induct with
  | case1 => exact ⟨[], encode .endPacket, rfl, by simp, by simp [Instr.endsPacket], by simp [payloadOf, Instr.payload]⟩
  | case2 b => exact ⟨[], encode (.last b), rfl, by simp, by simp [Instr.endsPacket], by simp [payloadOf, Instr.payload]⟩
  | case3 b c bs ih =>
    obtain ⟨body, ending, hmoves, hbody, hend, hbytes⟩ := ih
    refine ⟨encode (.byte b) :: body, ending, ?_, ?_, hend, ?_⟩
    · rw [List.map_cons, List.cons_append, ← hmoves]
      rfl
    · exact List.forall_mem_cons.mpr ⟨by simp [Instr.endsPacket], hbody⟩
    · rw [List.cons_append, ← hbytes]
      simp [payloadOf, Instr.payload]

/-- One packet sent as `PKT` (R57), from a boundary to the next one. -/
theorem observe_pktMoves {s : State} {pkt : List Byte} {rest : List Move} (hs : s.AtBoundary)
    (hm : s.moves = pktMoves pkt ++ rest) :
    observe (pktMoves pkt).length s = [scan pkt] ∧
    ∃ t, Sys2Proof.core.run (pktMoves pkt).length s = .next t ∧ t.moves = rest ∧ t.build = s.build ∧ t.AtBoundary := by
  obtain ⟨body, ending, hmoves, hbody, hend, hbytes⟩ := pktMoves_words pkt
  have hlen : (pktMoves pkt).length = body.length + 1 := by simp [hmoves]
  have hm' : s.moves = body.map .present ++ .present ending :: rest := by simp [hm, hmoves]
  obtain ⟨hobs, t, hrun, hrest, hbuild, hboundary, -⟩ := observe_packet hs hbody hend hm'
  rw [hlen]
  exact ⟨hbytes ▸ hobs, t, hrun, hrest, hbuild, hboundary⟩

/-- Settles O35, by induction on the packets: each starts at the boundary that the one before it left. -/
theorem oneReportForEachPacket : Obligations.OneReportForEachPacket := by
  intro s packets rest hb hs hst hcnt
  have hboundary : s.AtBoundary := ⟨hb, hs, hst, hcnt⟩
  clear hb hs hst hcnt
  induction packets generalizing s with
  | nil => exact fun hm => ⟨rfl, s, rfl, hm, rfl, hboundary.st, hboundary.cnt⟩
  | cons pkt packets ih =>
    intro hm
    rw [List.flatMap_cons, List.append_assoc] at hm
    obtain ⟨hobs, t, hrun, hmoves, hbuild, ht⟩ := observe_pktMoves hboundary hm
    obtain ⟨hobs', u, hrun', hmoves', hbuild', hu⟩ := ih t ht hmoves
    rw [List.flatMap_cons, List.length_append]
    refine ⟨?_, u, (core_run_add _ hrun).trans hrun', hmoves', hbuild'.trans hbuild, hu⟩
    rw [observe_add _ hrun, hobs, hobs']
    rfl

end Sys2Proof.Machine
end

section
/-! PROOFS. The decoder core (R60 to R64).

The idea: `dec24` of the three bytes of a `DEC` word is that word's two's-complement value, so `dout` is the word
sign-extended; the range, the bijection and the round trip are then those of 24-bit two's complement. -/

namespace Sys2Proof.Machine

open Sys2Proof

/-! ## The value of a word -/

/-- `dec24` is the two's-complement value of the `DEC` word, by the two cases of the sign (R61). -/
theorem dec24Word_eq_toInt (w : DecWord) : dec24Word w = w.toInt := by
  rw [BitVec.toInt_eq_toNat_cond]
  rcases dec24_cases (decB0 w) (decB1 w) (decB2 w) with ⟨hu, hv⟩ | ⟨hu, hv⟩ <;> rw [fieldUnsigned_word] at hu hv
  · rw [if_pos (by omega)]
    exact hv
  · rw [if_neg (by omega)]
    exact hv

/-- `dec24` of the word composed of three bytes is `dec24` of the bytes (R44). -/
@[simp] theorem dec24Word_decWordOf (b0 b1 b2 : Byte) : dec24Word (decWordOf b0 b1 b2) = dec24 b0 b1 b2 := by
  simp [dec24Word]

/-- `dec24` of three bytes is the two's-complement value of the word they compose (R61). -/
theorem dec24_eq_toInt (b0 b1 b2 : Byte) : dec24 b0 b1 b2 = (decWordOf b0 b1 b2).toInt := by
  rw [← dec24Word_decWordOf, dec24Word_eq_toInt]

/-- `dout` is `din`, sign-extended to the width of the output (R61). -/
theorem State.dout_eq_signExtend (s : State) : s.dout = s.din.signExtend s.build.outW := by
  rw [State.dout, dec24Word_eq_toInt, BitVec.signExtend]

/-- The two's-complement encoding of a value of the range decodes to the value (R63). -/
theorem dec24Word_bitsOf {v : Int} (hv : -8388608 ≤ v ∧ v ≤ 8388607) : dec24Word (bitsOf 24 v) = v := by
  rw [dec24Word_eq_toInt, toInt_bitsOf (Nat.le_refl 24) hv]

/-- The three bytes of a word are determined by the word (R44). -/
theorem decWordOf_inj {a0 a1 a2 b0 b1 b2 : Byte} (h : decWordOf a0 a1 a2 = decWordOf b0 b1 b2) :
    a0 = b0 ∧ a1 = b1 ∧ a2 = b2 :=
  ⟨by simpa using congrArg decB0 h, by simpa using congrArg decB1 h, by simpa using congrArg decB2 h⟩

/-! ## The obligations -/

/-- Settles O7: `dout` reads the word on `din`, and that word's bytes are the operands; the corner cases are evaluated. -/
theorem decodesASignedField : Obligations.DecodesASignedField := by
  refine ⟨fun s b0 b1 b2 => ⟨rfl, ?_⟩, by decide⟩
  exact congrArg (BitVec.ofInt s.build.outW) (dec24Word_decWordOf b0 b1 b2)

/-- Settles O8: the bits of a sign extension are the word's own, and above them its sign bit. -/
theorem outputIsSignExtension : Obligations.OutputIsSignExtension := by
  intro s hb
  have hw : 24 ≤ s.build.outW := Build.outW_ge hb
  rw [State.dout_eq_signExtend]
  refine ⟨dec24Word_eq_toInt s.din, fun k hk => ?_, fun k hk hkw => ?_, fun h24 => ?_⟩
  · rw [BitVec.getLsbD_signExtend, if_pos hk, decide_eq_true (by omega), Bool.true_and]
  · rw [BitVec.getLsbD_signExtend, if_neg (by omega), decide_eq_true hkw, Bool.true_and, BitVec.msb_eq_getLsbD_last]
  · rw [h24, BitVec.signExtend_eq]

/-- Settles O9: each clause is one of 24-bit two's complement, and every value's bytes are those of its encoding. -/
theorem rangeIsExact : Obligations.RangeIsExact := by
  refine ⟨dec24_range, fun v hlo hhi => ⟨_, _, _, dec24Word_bitsOf ⟨hlo, hhi⟩⟩, fun a0 a1 a2 b0 b1 b2 h => ?_,
    fun n b0 b1 b2 hn => toInt_bitsOf hn (dec24_range b0 b1 b2)⟩
  rw [dec24_eq_toInt, dec24_eq_toInt] at h
  exact decWordOf_inj (BitVec.eq_of_toInt_eq h)

/-- Settles O10: the bytes of the encoding are those of the `DEC` word it is. -/
theorem fieldRoundTrip : Obligations.FieldRoundTrip :=
  fun _ hlo hhi => dec24Word_bitsOf ⟨hlo, hhi⟩

/-- Settles O6, by the length of the byte sequence. -/
theorem otherFieldLengthsAreRefused : Obligations.OtherFieldLengthsAreRefused := by
  refine ⟨fun bytes hlen => ?_, fun _ _ _ => rfl⟩
  match bytes with
  | [] | [_] | [_, _] | _ :: _ :: _ :: _ :: _ => rfl
  | [_, _, _] => exact absurd rfl hlen

end Sys2Proof.Machine
end

section
/-! PROOFS. The scanner family: what each token and each edge does to the registers (R70 to R79), the reference function
on every packet (R68, R69), and one packet through the block, from a boundary to the report the host takes (R81, R99). -/

namespace Sys2Proof.Machine

open Sys2Proof

/-! ## The edge of a token -/

/-- The edge rule with `rst = 0`, on the fields of the token word: `in_valid` says whether the byte is accepted, `in_end`
whether the packet ends (R73). -/
theorem exec_decode_tok (t : TokWord) (s : State) :
    exec (decode (.tok t)) s =
      s.edge ((if tokV t then byteStep s.scanner.toCapture (tokD t) else .ok s.scanner.toCapture).map
        (if tokE t then s.scanner.finish else s.scanner.goOn)) := by
  rw [← tokWordOf_fields t, decode_tokWordOf]
  simp only [tokV_tokWordOf, tokE_tokWordOf, tokD_tokWordOf]
  cases tokV t <;> cases tokE t <;> rfl

/-- `BYTE` where `byte_step` accepts its byte (R75). -/
theorem exec_byte_of_byteStep {s : State} {d : Byte} {c : Capture} (hs : s.build.hasScanner = true)
    (hc : byteStep s.scanner.toCapture d = .ok c) :
    exec (.byte d) s = .next (s.withScanner (s.scanner.goOn c)) := by
  simp only [exec, execByte, hc, Except.map, s.edge_ok _ hs]

/-- The registers after the end of a packet, with the report of `end_step` written out (R70, R73). -/
theorem Scanner.finish_of_endStep {w : Nat} (sc : Scanner w) {c : Capture} {code : Status} {la lo : BitVec w}
    (h : endStep w c = (code, la, lo)) :
    sc.finish c =
      { st := .search, cnt := 0, buf := c.buf, doneQ := true, statusQ := code, latQ := la, lonQ := lo } := by
  rw [Scanner.finish, h]
  rfl

/-- `END` where `end_step` answers the report (R76). -/
theorem exec_endPacket_of_endStep {s : State} {code : Status} {la lo : BitVec s.build.outW}
    (hs : s.build.hasScanner = true) (he : endStep s.build.outW s.scanner.toCapture = (code, la, lo)) :
    exec .endPacket s = .next (s.withScanner
      { st := .search, cnt := 0, buf := s.scanner.buf, doneQ := true, statusQ := code, latQ := la, lonQ := lo }) := by
  rw [← s.scanner.finish_of_endStep he]
  exact s.edge_ok _ hs

/-- `LAST` where `byte_step` accepts its byte: the report is that of the registers with the byte (R77). -/
theorem exec_last_of_byteStep {s : State} {d : Byte} {c : Capture} {code : Status} {la lo : BitVec s.build.outW}
    (hs : s.build.hasScanner = true) (hc : byteStep s.scanner.toCapture d = .ok c)
    (he : endStep s.build.outW c = (code, la, lo)) :
    exec (.last d) s = .next (s.withScanner
      { st := .search, cnt := 0, buf := c.buf, doneQ := true, statusQ := code, latQ := la, lonQ := lo }) := by
  simp only [exec, execLast, hc, Except.map, s.edge_ok _ hs, s.scanner.finish_of_endStep he]

/-- A packet that ends in `DRAIN` is reported with the two decoded fields (R72). -/
theorem endStep_drain (w : Nat) {c : Capture} (hst : c.st = .drain) :
    endStep w c = (.ok, bitsOf w c.buf.lat, bitsOf w c.buf.lon) := by
  simp only [endStep, hst]

/-! ## The tokens and the edge rule -/

/-- Settles O12: the edge of `NOP` makes the registers it found, with `done_q` cleared. -/
theorem nopOnlyClearsDone : Obligations.NopOnlyClearsDone :=
  ⟨decode_tokWordOf false false, fun s hs => s.edge_ok _ hs⟩

/-- Settles O13, by the phase and, in `FIELD`, by whether the byte is the sixth. -/
theorem byteAddsOneByte : Obligations.ByteAddsOneByte := by
  refine ⟨decode_tokWordOf true false, fun s d hs => ⟨fun hst hd => ?_, fun hst hd => ?_, fun hlt hst => ?_, fun hst => ?_⟩⟩
  · obtain rfl : d = Config.marker := hd
    exact exec_byte_of_byteStep hs (byteStep_marker hst)
  · exact exec_byte_of_byteStep hs (byteStep_other hst hd)
  · by_cases h5 : s.scanner.cnt.val = 5
    · rw [exec_byte_of_byteStep hs (byteStep_sixth d hst h5), if_pos h5]
      have hcnt : (⟨s.scanner.cnt.val + 1, Nat.succ_lt_succ hlt⟩ : Fin 7) = 6 := Fin.ext (congrArg (· + 1) h5)
      rw [hcnt]
      rfl
    · rw [exec_byte_of_byteStep hs (byteStep_capture d hst (by omega)), if_neg h5]
      rfl
  · exact exec_byte_of_byteStep hs (byteStep_drain d hst)

/-- Settles O14, by the phase the packet ends in. -/
theorem endReportsThePacket : Obligations.EndReportsThePacket := by
  refine ⟨decode_tokWordOf false true, fun s hs => ?_⟩
  rcases endStep_cases s.build.outW s.scanner.toCapture with ⟨hst, he⟩ | ⟨hst, he⟩ | ⟨hst, he⟩
  · simp only [exec_endPacket_of_endStep hs he, hst]
  · simp only [exec_endPacket_of_endStep hs he, hst]
  · simp only [exec_endPacket_of_endStep hs he, hst]
    rfl

/-- Settles O15: each case is one of `byte_step`, and the phase it leaves selects the report. -/
theorem lastAddsItsByteAndReports : Obligations.LastAddsItsByteAndReports := by
  refine ⟨decode_tokWordOf true true, fun s d hs =>
    ⟨fun hst hd => ?_, fun hst hd => ?_, fun hlt hst h5 => ?_, fun hst h5 => ?_, fun hst => ?_⟩⟩
  · obtain rfl : d = Config.marker := hd
    rw [exec_last_of_byteStep hs (byteStep_marker hst) rfl]
  · rw [exec_last_of_byteStep hs (byteStep_other hst hd) rfl]
  · exact exec_last_of_byteStep hs (byteStep_capture d hst h5) rfl
  · have hbuf : s.scanner.buf.set s.scanner.cnt.val d (by omega) = s.scanner.buf.set 5 d := by simp only [h5]
    rw [exec_last_of_byteStep hs (byteStep_sixth d hst h5) (endStep_drain _ rfl), hbuf]
    simp [Buf.lat, Buf.lon]
  · rw [exec_last_of_byteStep hs (byteStep_drain d hst) (endStep_drain _ rfl)]
    rfl

/-- Settles O17: the token's edge, by what the byte makes of the capture registers and by whether the packet ends; and the
reset edge. -/
theorem edgeRule : Obligations.EdgeRule := by
  refine ⟨fun s t rest hs hm => ?_, fun s t rest hs hm => ?_⟩
  · rw [step_of_present hm, exec_decode_tok]
    change (s.withMoves rest).edge ((if tokV t then byteStep s.scanner.toCapture (tokD t) else _).map _) =
      match (if tokV t then byteStep s.scanner.toCapture (tokD t) else _) with
      | .error f => _
      | .ok c1 => if tokE t then _ else _
    cases (if tokV t then byteStep s.scanner.toCapture (tokD t) else .ok s.scanner.toCapture) with
    | error f => exact State.edge_eq_fault_iff.mpr ⟨hs, rfl⟩
    | ok c1 => cases tokE t <;> exact (s.withMoves rest).edge_ok _ hs
  · rw [step_of_rstEdge hm]
    exact (s.withMoves rest).edge_ok _ hs

/-! ## When the outputs change -/

/-- Settles O18: the registers of the end of a packet have `done_q` set, those of any other token have it cleared. -/
theorem doneMarksReportingEdges : Obligations.DoneMarksReportingEdges :=
  fun _ _ _ hi h => exec_doneQ_of_isToken hi h

/-- An operation that does not end the packet holds the build and the output registers (R79). -/
theorem exec_holds_outputs {i : Instr} {s t : State} (hi : i.endsPacket = false) (h : exec i s = .next t) :
    t.build = s.build ∧ t.scanner.statusQ = s.scanner.statusQ ∧
    t.scanner.latQ.toNat = s.scanner.latQ.toNat ∧ t.scanner.lonQ.toNat = s.scanner.lonQ.toNat := by
  rcases exec_next h with
    ⟨_, _, _, _, rfl⟩ | ⟨_, _, rfl⟩ | ⟨_, rfl, _⟩ | ⟨_, _, _, _, _, rfl⟩ | ⟨_, _, _, rfl, _⟩
  · exact ⟨rfl, rfl, rfl, rfl⟩
  · exact ⟨rfl, rfl, rfl, rfl⟩
  · exact nomatch hi
  · exact ⟨rfl, rfl, rfl, rfl⟩
  · exact nomatch hi

/-- Settles O19, by what the step is: idle, or a word that ends no packet; a reset edge is excluded. -/
theorem outputsHoldBetweenReports : Obligations.OutputsHoldBetweenReports := by
  refine ⟨fun s t h hrst hword => ?_, fun s hdone => State.reportNow_of_not_done hdone⟩
  rcases step_next h with ⟨_, _, rfl⟩ | ⟨_, _, rfl⟩ | ⟨tok, rest, hm, _, _⟩ | ⟨w, rest, hm, hw⟩
  · exact ⟨rfl, rfl, rfl, rfl⟩
  · exact ⟨rfl, rfl, rfl, rfl⟩
  · exact absurd hm (hrst tok rest)
  · exact exec_holds_outputs (s := s.withMoves rest) (hword w rest hm) hw

/-! ## The reference function -/

/-- The marker is in a packet exactly if some first one splits it. -/
theorem marker_mem_iff {pkt : List Byte} :
    Config.marker ∈ pkt ↔ ∃ before after, pkt = before ++ Config.marker :: after ∧ Config.marker ∉ before := by
  refine ⟨List.eq_append_cons_of_mem, ?_⟩
  rintro ⟨before, after, rfl, _⟩
  exact List.mem_append_right before List.mem_cons_self

/-- `scan` reports `MARKER_NOT_FOUND` exactly where no byte is the marker (R68). -/
theorem scan_eq_markerNotFound_iff {pkt : List Byte} : scan pkt = .markerNotFound ↔ Config.marker ∉ pkt := by
  refine ⟨fun hscan hmem => ?_, scan_of_no_marker⟩
  obtain ⟨before, after, rfl, hmark⟩ := marker_mem_iff.mp hmem
  rw [scan_of_marker after hmark] at hscan
  split at hscan <;> exact nomatch hscan

/-- `scan` reports `TRUNCATED` exactly where the bytes after the first marker are too few (R68). -/
theorem scan_eq_truncated_iff {pkt : List Byte} : scan pkt = .truncated ↔
    ∃ before after, pkt = before ++ Config.marker :: after ∧ Config.marker ∉ before ∧ after.length < 6 := by
  constructor
  · intro hscan
    by_cases hmem : Config.marker ∈ pkt
    · obtain ⟨before, after, rfl, hmark⟩ := marker_mem_iff.mp hmem
      refine ⟨before, after, rfl, hmark, ?_⟩
      rcases Nat.lt_or_ge after.length 6 with hlen | hlen
      · exact hlen
      · rw [scan_of_marker after hmark, if_neg (Nat.not_lt.mpr hlen)] at hscan
        exact nomatch hscan
    · rw [scan_of_no_marker hmem] at hscan
      exact nomatch hscan
  · rintro ⟨before, after, rfl, hmark, hlen⟩
    rw [scan_of_marker after hmark, if_pos hlen]

/-- Settles O32: a packet has no marker, or splits at the first one, and `scan` then looks at the bytes after it alone. -/
theorem scanIsTheReferenceFunction : Obligations.ScanIsTheReferenceFunction := by
  refine ⟨fun _ => scan_eq_markerNotFound_iff, fun _ => scan_eq_truncated_iff, ?_⟩
  intro before after a0 a1 a2 o0 o1 o2 hmark
  have hlen : ¬(a0 :: a1 :: a2 :: o0 :: o1 :: o2 :: after).length < 6 := by simp
  exact (scan_of_marker _ hmark).trans (if_neg hlen)

/-! ## One packet through the block -/

/-- A report is present only where `done_q` is set (R48). -/
theorem State.done_of_reportNow {s : State} {r : Report} (h : s.reportNow = some r) : s.scanner.doneQ = true := by
  cases hdone : s.scanner.doneQ with
  | false => exact nomatch (State.reportNow_of_not_done hdone).symm.trans h
  | true => rfl

/-- Settles O34: the words before the ending one give no report, and the whole packet gives one. -/
theorem scannerAgreesWithScan : Obligations.ScannerAgreesWithScan := by
  intro s body ending rest hb hs hst hcnt hbody hend hm
  have hm' : s.moves = body.map .present ++ .present ending :: rest := by simpa using hm
  obtain ⟨hobs, t, hrun, hmoves, hbuild, ht, hreport⟩ := observe_packet ⟨hb, hs, hst, hcnt⟩ hbody hend hm'
  exact ⟨observe_body body hbody hm', hobs, t, hrun, hmoves, hbuild, ht.st, ht.cnt, State.done_of_reportNow hreport,
    hreport⟩

/-- Where the text converts, the host takes its coordinates from `scan` of the bytes (R99). -/
theorem decodeCoordinates_of_ok {text : List Char} {bytes : List Byte} (h : hostHex text = .ok bytes) :
    decodeCoordinates text = coordinatesOf (scan bytes) := by
  simp only [decodeCoordinates, h]

/-- Where the text does not convert, the host fails with that error (R99). -/
theorem decodeCoordinates_of_error {text : List Char} {e : HostError} (h : hostHex text = .error e) :
    decodeCoordinates text = .error e := by
  simp only [decodeCoordinates, h]

/-- Settles O42: the block's one report of the packet is the `scan` that the host's composition names. -/
theorem coordinatesThroughTheBlock : Obligations.CoordinatesThroughTheBlock := by
  intro s text rest hb hs hst hcnt
  refine ⟨fun _ herr => decodeCoordinates_of_error herr, fun bytes hok hm => ?_⟩
  obtain ⟨hobs, -⟩ := observe_pktMoves ⟨hb, hs, hst, hcnt⟩ hm
  exact ⟨scan bytes, hobs, decodeCoordinates_of_ok hok⟩

end Sys2Proof.Machine
end

section
/-! PROOFS. The host's hex conversion (R86, R96): which characters are hex digits, when the pairs convert, and the bytes
that a text of digits gives back. -/

namespace Sys2Proof.Machine

open Sys2Proof

/-! ## One hex digit -/

/-- A character stands in a list exactly if its code is one of the list's codes. -/
theorem mem_iff_toNat_mem_map {c : Char} {cs : List Char} : c ∈ cs ↔ c.toNat ∈ cs.map Char.toNat := by
  refine ⟨List.mem_map_of_mem, fun h => ?_⟩
  obtain ⟨d, hd, hcode⟩ := List.mem_map.mp h
  exact Char.toNat_inj.mp hcode ▸ hd

/-- A character is one of the 22 hex digits exactly if its code is in one of three ranges (R86). -/
theorem mem_hexDigits_iff {c : Char} : c ∈ "0123456789abcdefABCDEF".toList ↔
    (48 ≤ c.toNat ∧ c.toNat ≤ 57) ∨ (65 ≤ c.toNat ∧ c.toNat ≤ 70) ∨ (97 ≤ c.toNat ∧ c.toNat ≤ 102) := by
  have hcodes : "0123456789abcdefABCDEF".toList.map Char.toNat =
      [48, 49, 50, 51, 52, 53, 54, 55, 56, 57, 97, 98, 99, 100, 101, 102, 65, 66, 67, 68, 69, 70] := by decide
  rw [mem_iff_toNat_mem_map, hcodes]
  simp only [List.mem_cons, List.not_mem_nil, or_false]
  omega

/-- A character has no value as a hex digit exactly if it is none of the 22 (R86). -/
theorem hexDigit_eq_none_iff {c : Char} : hexDigit c = none ↔ c ∉ "0123456789abcdefABCDEF".toList := by
  rw [mem_hexDigits_iff]
  simp only [hexDigit]
  split
  next hdec => exact ⟨nofun, fun hnot => absurd (.inl hdec) hnot⟩
  next hdec =>
    split
    next hcap => exact ⟨nofun, fun hnot => absurd (.inr (.inl hcap)) hnot⟩
    next hcap =>
      split
      next hsmall => exact ⟨nofun, fun hnot => absurd (.inr (.inr hsmall)) hnot⟩
      next hsmall => exact iff_of_true rfl fun hrange => hrange.elim hdec fun hletter => hletter.elim hcap hsmall

/-- A hex digit is no space. -/
theorem ne_space_of_hexDigit_eq_some {c : Char} {n : Nat} (h : hexDigit c = some n) : c ≠ ' ' := by
  rintro rfl
  exact nomatch h

/-! ## Pairs of hex digits -/

/-- A pair of hex digits before a text that converts puts its byte in front, most significant nibble first (R96). -/
theorem hexPairs_cons_cons {a b : Char} {h l : Nat} {rest : List Char} {bytes : List Byte} (ha : hexDigit a = some h)
    (hb : hexDigit b = some l) (hrest : hexPairs rest = some bytes) :
    hexPairs (a :: b :: rest) = some (BitVec.ofNat 8 (16 * h + l) :: bytes) := by
  simp only [hexPairs, ha, hb, hrest]

/-- A text of two characters or more fails exactly where one of the first two is no hex digit or the rest fails. -/
theorem hexPairs_cons_cons_eq_none_iff {a b : Char} {rest : List Char} :
    hexPairs (a :: b :: rest) = none ↔ hexDigit a = none ∨ hexDigit b = none ∨ hexPairs rest = none := by
  cases ha : hexDigit a with
  | none => simp only [hexPairs, ha, true_or]
  | some h =>
    cases hb : hexDigit b with
    | none => simp only [hexPairs, ha, hb, true_or, or_true]
    | some l =>
      cases hrest : hexPairs rest with
      | none => simp only [hexPairs, ha, hb, hrest, or_true]
      | some bs => simp only [hexPairs_cons_cons ha hb hrest, reduceCtorEq, or_self]

/-- The pairs fail exactly on an odd length or on a character that is no hex digit (R86, R96). -/
theorem hexPairs_eq_none_iff : ∀ cs : List Char,
    hexPairs cs = none ↔ cs.length % 2 = 1 ∨ ∃ c ∈ cs, hexDigit c = none
  | [] => by simp only [hexPairs, List.length_nil, List.not_mem_nil, false_and, exists_false, reduceCtorEq,
      Nat.zero_mod, Nat.zero_ne_one, or_self]
  | [_] => by simp only [hexPairs, List.length_singleton, Nat.mod_succ, true_or]
  | a :: b :: rest => by
    have hlen : (a :: b :: rest).length % 2 = rest.length % 2 := Nat.add_mod_right rest.length 2
    rw [hexPairs_cons_cons_eq_none_iff, hexPairs_eq_none_iff rest, hlen]
    simp only [List.mem_cons, or_and_right, exists_or, exists_eq_left]
    rw [or_left_comm (a := rest.length % 2 = 1), or_left_comm (a := rest.length % 2 = 1)]

/-! ## The host's text -/

/-- The host's conversion gives the bytes of the pairs that stand in the text without its spaces (R96). -/
theorem hostHex_eq_ok_iff {text : List Char} {bytes : List Byte} :
    hostHex text = .ok bytes ↔ hexPairs (removeSpaces text) = some bytes := by
  unfold hostHex
  cases hexPairs (removeSpaces text) with
  | none => simp only [reduceCtorEq]
  | some bs => simp only [Except.ok.injEq, Option.some.injEq]

/-- The host's conversion fails exactly where the pairs do (R96). -/
theorem hostHex_eq_error_iff {text : List Char} :
    hostHex text = .error .malformedHexInput ↔ hexPairs (removeSpaces text) = none := by
  unfold hostHex
  cases hexPairs (removeSpaces text) with
  | none => exact iff_of_true rfl rfl
  | some bs => exact iff_of_false nofun nofun

/-- What is left in a text without its spaces (R96). -/
theorem mem_removeSpaces {text : List Char} {c : Char} : c ∈ removeSpaces text ↔ c ∈ text ∧ c ≠ ' ' := by
  simp only [removeSpaces, List.mem_filter, bne_iff_ne]

/-- Settles O39: the text without its spaces is a list of pairs, which fails on its length or on one of its characters. -/
theorem malformedHexExactly : Obligations.MalformedHexExactly := by
  intro text
  rw [hostHex_eq_error_iff, hexPairs_eq_none_iff]
  simp only [mem_removeSpaces, hexDigit_eq_none_iff, and_assoc]
  rfl

/-- In small letters and in capitals, the digit at each place below 16 has that place as its value. -/
theorem hexDigit_getD {digits : List Char}
    (h : digits = "0123456789abcdef".toList ∨ digits = "0123456789ABCDEF".toList) :
    ∀ n < 16, hexDigit (digits.getD n '0') = some n := by
  rcases h with rfl | rfl <;> decide

/-- A character that is no space stays in front (R96). -/
theorem removeSpaces_cons_of_ne {c : Char} {rest : List Char} (h : c ≠ ' ') :
    removeSpaces (c :: rest) = c :: removeSpaces rest :=
  List.filter_cons_of_pos (p := fun c => c != ' ') (bne_iff_ne.mpr h)

/-- A space in front is removed (R96). -/
theorem removeSpaces_space_cons (rest : List Char) : removeSpaces (' ' :: rest) = removeSpaces rest := rfl

/-- A byte is made of its two nibbles. -/
theorem ofNat_nibbles (b : Byte) : BitVec.ofNat 8 (16 * (b.toNat / 16) + b.toNat % 16) = b := by
  rw [Nat.div_add_mod, BitVec.ofNat_toNat, BitVec.setWidth_eq]

/-- Settles O40, by induction on the bytes: each one's two digits are its nibbles. -/
theorem hexTextGivesItsBytes : Obligations.HexTextGivesItsBytes := by
  intro digits bytes hdigits
  rw [hostHex_eq_ok_iff]
  induction bytes with
  | nil => rfl
  | cons b bytes ih =>
    have hhigh := hexDigit_getD hdigits (b.toNat / 16) (by omega)
    have hlow := hexDigit_getD hdigits (b.toNat % 16) (by omega)
    rw [List.flatMap_cons, List.cons_append, List.cons_append, List.cons_append, List.nil_append,
      removeSpaces_cons_of_ne (ne_space_of_hexDigit_eq_some hhigh),
      removeSpaces_cons_of_ne (ne_space_of_hexDigit_eq_some hlow), removeSpaces_space_cons,
      hexPairs_cons_cons hhigh hlow ih, ofNat_nibbles]

end Sys2Proof.Machine
end

section
/-! PROOFS. Reset and hazards: an edge with `rst = 1` leaves a packet boundary and no report (R102, R103), so a packet
in progress is abandoned (R106); a token held for two edges counts twice (R110). -/

namespace Sys2Proof.Machine

open Sys2Proof

/-! ## The reset edge -/

/-- The step of a reset edge, in a build with a scanner (R102, R103). -/
theorem step_rstEdge {s : State} {tok : TokWord} {rest : List Move} (hs : s.build.hasScanner = true)
    (hm : s.moves = .rstEdge tok :: rest) : step s = .next ((s.withMoves rest).withScanner s.scanner.reset) := by
  rw [step_of_rstEdge hm]
  exact (s.withMoves rest).edge_ok _ hs

/-- Settles O27: the registers of `reset`, written out. -/
theorem resetEdgeDiscardsTheToken : Obligations.ResetEdgeDiscardsTheToken :=
  fun _ _ _ hs hm => step_rstEdge hs hm

/-- A reset edge gives no report, so what the host observes is what it observes after it (R100, R102). -/
theorem observe_rstEdge (n : Nat) {s : State} {tok : TokWord} {rest : List Move} (hs : s.build.hasScanner = true)
    (hm : s.moves = .rstEdge tok :: rest) :
    observe (n + 1) s = observe n ((s.withMoves rest).withScanner s.scanner.reset) := by
  have hnone : ((s.withMoves rest).withScanner s.scanner.reset).reportNow = none := State.reportNow_of_not_done rfl
  rw [observe_of_step (step_rstEdge hs hm), hnone, Option.toList_none, ite_self, List.nil_append]

/-! ## A packet in progress -/

/-- A build with a scanner has the ports for every move (R43). -/
theorem Move.wellFormed_of_hasScanner {b : Build} (hb : b.hasScanner = true) (m : Move) : m.wellFormed b = true := by
  cases m with
  | rstEdge tok => exact hb
  | present w =>
    cases w with
    | dec w => rfl
    | tok t => exact hb

/-- A run keeps the build, and makes as many of the host's moves as it has steps (R5, R98). -/
theorem core_run_build_moves {n : Nat} {s t : State} (h : Sys2Proof.core.run n s = .next t) :
    t.build = s.build ∧ t.moves = s.moves.drop n := by
  induction n generalizing s with
  | zero =>
    injection h with h
    exact h ▸ ⟨rfl, rfl⟩
  | succ n ih =>
    cases hs : step s with
    | next u =>
      rw [core_run_of_step hs] at h
      obtain ⟨hbuild, hmoves⟩ := ih h
      obtain ⟨hbuild', hmoves'⟩ := step_build_moves hs
      exact ⟨hbuild.trans hbuild', by rw [hmoves, hmoves', List.drop_tail]⟩
    | fault f => rw [core_run_of_fault hs] at h; exact nomatch h
    | refused r => rw [core_run_of_refused hs] at h; exact nomatch h

/-- Settles O36: the partial packet's words run without a stop and give no report, the reset edge gives none and leaves a
boundary, and the packet from there gives its own. -/
theorem resetAbandonsAPacket : Obligations.ResetAbandonsAPacket := by
  intro s body tok pkt hinv hs hbody hm
  have hsafe : s.Safe := ⟨hinv, fun m _ => Move.wellFormed_of_hasScanner hs m⟩
  obtain ⟨t, hrun, ⟨hwf, -⟩, -⟩ := noMoveStopsASafeMachine body.length s hsafe
  obtain ⟨hbuild, hdrop⟩ := core_run_build_moves hrun
  have hmoves : t.moves = .rstEdge tok :: pktMoves pkt := by
    rw [hdrop, hm, List.drop_left' (List.length_map _)]
  have ht : t.build.hasScanner = true := hbuild ▸ hs
  have hboundary : ((t.withMoves (pktMoves pkt)).withScanner t.scanner.reset).AtBoundary := ⟨hwf, ht, rfl, rfl⟩
  obtain ⟨hpkt, -⟩ := observe_pktMoves hboundary (List.append_nil _).symm
  have hlen : s.moves.length = body.length + ((pktMoves pkt).length + 1) := by
    rw [hm, List.length_append, List.length_map, List.length_cons]
  calc observe s.moves.length s
      = observe body.length s ++ observe ((pktMoves pkt).length + 1) t := by rw [hlen, observe_add _ hrun]
    _ = observe ((pktMoves pkt).length + 1) t := by rw [observe_body body hbody hm, List.nil_append]
    _ = [scan pkt] := by rw [observe_rstEdge _ ht hmoves, hpkt]

/-! ## A held token -/

/-- The step of a presented `BYTE d` in `FIELD`: `d` goes to `buf[cnt]`, and the first five bytes leave `FIELD` as the
phase (R71, R75). -/
theorem step_byte_of_field {s : State} {d : Byte} {rest : List Move} (hs : s.build.hasScanner = true)
    (hst : s.scanner.st = .field) (hlt : s.scanner.cnt.val < 6) (hm : s.moves = .present (encode (.byte d)) :: rest) :
    ∃ t, step s = .next t ∧ t.build = s.build ∧ t.moves = rest ∧ (s.scanner.cnt.val < 5 → t.scanner.st = .field) ∧
      t.scanner.cnt.val = s.scanner.cnt.val + 1 ∧ t.scanner.buf = s.scanner.buf.set s.scanner.cnt.val d hlt := by
  obtain ⟨-, hbyte⟩ := byteAddsOneByte
  obtain ⟨-, -, hfield, -⟩ := hbyte (s.withMoves rest) d hs
  have hstep := step_of_present hm
  rw [decode_encode, hfield hlt hst] at hstep
  exact ⟨_, hstep, rfl, rfl, fun h5 => if_neg (Nat.ne_of_lt h5), rfl, rfl⟩

/-- Settles O25: the first edge writes `buf[cnt]` and stays in `FIELD`, so the second one writes the cell after it. -/
theorem aHeldTokenCountsTwice : Obligations.AHeldTokenCountsTwice := by
  intro s d rest hs hst h5 hm
  obtain ⟨t, ht, htbuild, htmoves, htst, htcnt, htbuf⟩ := step_byte_of_field hs hst (by omega) hm
  obtain ⟨u, hu, -, humoves, -, hucnt, hubuf⟩ :=
    step_byte_of_field (htbuild ▸ hs) (htst h5) (by omega) htmoves
  refine ⟨u, (core_run_of_step ht).trans (core_run_of_step hu), humoves, by rw [hucnt, htcnt], ?_, ?_⟩
  · rw [hubuf, Vector.getElem?_set_ne _ (by omega), htbuf, Vector.getElem?_set_self]
  · rw [hubuf, ← htcnt, Vector.getElem?_set_self]

end Sys2Proof.Machine
end

section
/-! PROOFS. The host's doubles (R97, log entry 5): a quotient by `SCALE` rounded to nearest with ties to even, and why the
53 bits of the significand never overflow.

The idea for the overflow: the dividend `|v| * 2^(120-k)` and `2^53 * SCALE` are both multiples of `2^43`, so a dividend
below `2^53 * SCALE` is too far below it to be rounded up to `2^53`. -/

namespace Sys2Proof.Machine

open Sys2Proof

/-! ## Division by `SCALE`, rounded -/

/-- `x / SCALE` rounded to nearest, ties to even: the significand that `toDegrees` makes of its dividend. -/
def nearestQuotient (x : Nat) : Nat :=
  if Config.scale < 2 * (x % Config.scale) ∨ (2 * (x % Config.scale) = Config.scale ∧ x / Config.scale % 2 = 1) then
    x / Config.scale + 1
  else x / Config.scale

/-- The two ways to round: down, by less than half or by half from an even quotient, and up, by less than half or by half
from an odd quotient. -/
theorem nearestQuotient_cases (x : Nat) :
    (nearestQuotient x = x / 30000 ∧ (2 * (x % 30000) < 30000 ∨ (2 * (x % 30000) = 30000 ∧ x / 30000 % 2 = 0))) ∨
    (nearestQuotient x = x / 30000 + 1 ∧
      (30000 < 2 * (x % 30000) ∨ (2 * (x % 30000) = 30000 ∧ x / 30000 % 2 = 1))) := by
  unfold nearestQuotient Config.scale
  split <;> omega

/-- The rounded quotient misses by at most a half, from either side. -/
theorem nearestQuotient_within_half (x : Nat) :
    2 * nearestQuotient x * 30000 ≤ 2 * x + 30000 ∧ 2 * x ≤ 2 * nearestQuotient x * 30000 + 30000 := by
  obtain ⟨hm, hr⟩ | ⟨hm, hr⟩ := nearestQuotient_cases x <;> omega

/-- A quotient that misses by a half is even. -/
theorem nearestQuotient_even_of_tie {x : Nat}
    (htie : 2 * nearestQuotient x * 30000 = 2 * x + 30000 ∨ 2 * x = 2 * nearestQuotient x * 30000 + 30000) :
    nearestQuotient x % 2 = 0 := by
  obtain ⟨hm, hr⟩ | ⟨hm, hr⟩ := nearestQuotient_cases x <;> omega

/-- A dividend between `2^52 * SCALE` and `2^53 * SCALE` that is a multiple of `2^43` has a quotient of 53 bits, with no
carry out of the rounding. -/
theorem nearestQuotient_mem_significands {x : Nat} (hlo : 2 ^ 52 * 30000 ≤ x) (hhi : x < 2 ^ 53 * 30000)
    (hdvd : 2 ^ 43 ∣ x) : 2 ^ 52 ≤ nearestQuotient x ∧ nearestQuotient x < 2 ^ 53 := by
  obtain ⟨hle, hge⟩ := nearestQuotient_within_half x
  have hgap : x + 2 ^ 43 ≤ 2 ^ 53 * 30000 := by omega
  constructor <;> omega

/-! ## The binary exponent -/

/-- `k` of `toDegrees`: the binary exponent of `n / SCALE` is `k - 68`. -/
def degreesExponent (n : Nat) : Nat := Nat.log2 (n * 2 ^ 68 / Config.scale)

/-- The dividend of `toDegrees`: `n` shifted so that its quotient by `SCALE` has 53 bits. -/
def degreesDividend (n : Nat) : Nat := n * 2 ^ (120 - degreesExponent n)

/-- `2^(k-68)` is the largest power of two not above `n / SCALE`. -/
theorem degreesExponent_spec {n : Nat} (hn : 0 < n) :
    2 ^ degreesExponent n * 30000 ≤ n * 2 ^ 68 ∧ n * 2 ^ 68 < 2 ^ (degreesExponent n + 1) * 30000 := by
  have hquot : n * 2 ^ 68 / 30000 ≠ 0 := by omega
  have hlo : 2 ^ degreesExponent n ≤ n * 2 ^ 68 / 30000 := Nat.log2_self_le hquot
  have hhi : n * 2 ^ 68 / 30000 < 2 ^ (degreesExponent n + 1) := Nat.lt_log2_self
  exact ⟨(Nat.le_div_iff_mul_le (by decide)).mp hlo, (Nat.div_lt_iff_lt_mul (by decide)).mp hhi⟩

/-- Every value of the range has `k ≤ 77`. -/
theorem degreesExponent_le {n : Nat} (hn : 0 < n) (hmax : n ≤ 2 ^ 23) : degreesExponent n ≤ 77 := by
  obtain ⟨hlo, -⟩ := degreesExponent_spec hn
  have hpow : 2 ^ degreesExponent n < 2 ^ 78 := by omega
  exact Nat.le_of_lt_succ ((Nat.pow_lt_pow_iff_right (by decide)).mp hpow)

/-- The shift brings the quotient by `SCALE` between `2^52` and `2^53`. -/
theorem degreesDividend_bounds {n : Nat} (hn : 0 < n) (hk : degreesExponent n ≤ 77) :
    2 ^ 52 * 30000 ≤ degreesDividend n ∧ degreesDividend n < 2 ^ 53 * 30000 := by
  obtain ⟨hlo, hhi⟩ := degreesExponent_spec hn
  have hpos : 0 < 2 ^ degreesExponent n := Nat.two_pow_pos _
  have hshift : degreesDividend n * 2 ^ degreesExponent n = n * 2 ^ 68 * 2 ^ 52 := by
    rw [degreesDividend, Nat.mul_assoc, ← Nat.pow_add, Nat.sub_add_cancel (by omega), Nat.mul_assoc, ← Nat.pow_add]
  rw [Nat.pow_succ] at hhi
  constructor
  · refine Nat.le_of_mul_le_mul_right ?_ hpos
    omega
  · refine Nat.lt_of_mul_lt_mul_right (a := 2 ^ degreesExponent n) ?_
    omega

/-- The significand of every non-zero value of the range has 53 bits. -/
theorem degreesSignificand_bounds {n : Nat} (hn : 0 < n) (hk : degreesExponent n ≤ 77) :
    2 ^ 52 ≤ nearestQuotient (degreesDividend n) ∧ nearestQuotient (degreesDividend n) < 2 ^ 53 := by
  obtain ⟨hlo, hhi⟩ := degreesDividend_bounds hn hk
  have hdvd : 2 ^ 43 ∣ degreesDividend n := Nat.dvd_mul_left_of_dvd (Nat.pow_dvd_pow 2 (by omega)) n
  exact nearestQuotient_mem_significands hlo hhi hdvd

/-! ## The 64 bits -/

/-- The double of a value that is not 0, through the names above. -/
theorem toDegrees_of_ne_zero {v : Int} (hv : v ≠ 0) :
    toDegrees v = BitVec.ofNat 64 ((if v < 0 then 2 ^ 63 else 0) + (degreesExponent v.natAbs + 955) * 2 ^ 52 +
      (nearestQuotient (degreesDividend v.natAbs) - 2 ^ 52)) :=
  if_neg (Int.natAbs_ne_zero.mpr hv)

/-- A sign, an exponent field below 2047 and a fraction of 52 bits fit the 64 bits. -/
theorem double_lt {v : Int} {E f : Nat} (hE : E < 2047) (hf : f < 2 ^ 52) :
    (if v < 0 then 2 ^ 63 else 0) + E * 2 ^ 52 + f < 2 ^ 64 := by
  split <;> omega

/-- Settles O41: the exponent field is `k + 955`, the significand is the rounded quotient of the shifted dividend. -/
theorem degreesAreRoundedToNearest : Obligations.DegreesAreRoundedToNearest := by
  refine ⟨rfl, fun v hmin hmax hv => ?_⟩
  have hn : 0 < v.natAbs := Int.natAbs_pos.mpr hv
  have hk : degreesExponent v.natAbs ≤ 77 := degreesExponent_le hn (by omega)
  obtain ⟨hlo, hhi⟩ := degreesSignificand_bounds hn hk
  have hdividend : 2 * v.natAbs * 2 ^ (1075 - (degreesExponent v.natAbs + 955)) = 2 * degreesDividend v.natAbs := by
    rw [Nat.add_comm, ← Nat.sub_sub, Nat.mul_assoc, degreesDividend]
  obtain ⟨hup, hdown⟩ := nearestQuotient_within_half (degreesDividend v.natAbs)
  refine ⟨degreesExponent v.natAbs + 955, nearestQuotient (degreesDividend v.natAbs), by omega, by omega, hlo, hhi, ?_,
    ?_⟩
  · rw [toDegrees_of_ne_zero hv, BitVec.toNat_ofNat]
    exact Nat.mod_eq_of_lt (double_lt (by omega) (by omega))
  · rw [hdividend]
    exact ⟨hup, hdown, nearestQuotient_even_of_tie⟩

end Sys2Proof.Machine
end
